-- ==== Sys2Proof/Word.lean ====
section
/-! DEFINITION. The word types of the block: bytes, 16-bit values, command words and PBUF addresses
(spec/00_scope.md R6, R8; spec/30_encoding.md R53). The block has no signed quantity (R8). -/

namespace Sys2Proof

/-- A byte: a payload byte, a packet byte, the brightness of SENDDIM. -/
abbrev Byte := BitVec 8

/-- A 16-bit value: a universe, the operand of format N16, the data of a response (R6, R54, R76). -/
abbrev Half := BitVec 16

/-- A command word (R51): a parallel value, with no byte order inside the block (R27). -/
abbrev CmdWord := BitVec 32

/-- A PBUF address: nine bits, every value of which is valid (R25, R53). -/
abbrev PbufAddr := BitVec 9

end Sys2Proof
end

