-- ==== Sys2Proof/Config.lean ====
section
/-! DEFINITION. The implementation parameters of spec/00_scope.md R6, each a named constant with the
value R6 gives it, and the one open input of the block, the transport's answer (R7). -/

namespace Sys2Proof.Config

/-- `SEQ_WIDTH`: the width of the sequence counter in bits. -/
def seqWidth : Nat := 8

/-- `SEQ_MOD`: the sequence counter counts modulo this. -/
def seqMod : Nat := 256

/-- `UNIV_WIDTH`: the width of a universe number in bits. -/
def univWidth : Nat := 16

/-- `DIMMER_UNIV`: the fixed universe of the dimmer packet (10_state.md R20). -/
def dimmerUniv : Half := 15

/-- `DEFAULT_DATA_UNIV`: the data universe after reset. -/
def defaultDataUniv : Half := 0

/-- `MAX_DMX_LEN`: the most payload bytes of one packet. -/
def maxDmxLen : Nat := 512

/-- `MAX_LEDS`: the largest legal LED count. -/
def maxLeds : Nat := 170

/-- `MIN_LEDS`: the smallest legal LED count. -/
def minLeds : Nat := 1

/-- `DEFAULT_LEDS`: the LED count after reset. -/
def defaultLeds : Byte := 30

/-- `BYTES_PER_PIXEL`: red, green, blue. -/
def bytesPerPixel : Nat := 3

/-- `PBUF_SIZE`: the bytes of the payload buffer. -/
def pbufSize : Nat := 512

/-- `HEADER_LEN`: the bytes of a packet before its data (30_encoding.md R49). -/
def headerLen : Nat := 18

/-- `ARTNET_ID`: the eight bytes of "Art-Net" and a NUL (30_encoding.md R41). The spec takes the ASCII
codes from general knowledge (93_implementation_defined.md GK2): PRESUMED, log entry 10. -/
def artnetId : List Byte := [0x41, 0x72, 0x74, 0x2D, 0x4E, 0x65, 0x74, 0x00]

/-- `OPCODE_DMX`: the Art-Net opcode OpDmx. -/
def opcodeDmx : Half := 0x5000

/-- `PROT_VER`: the Art-Net protocol version. -/
def protVer : Half := 14

/-- `PHYSICAL`: the physical port field, always 0 (10_state.md R21). -/
def physical : Byte := 0

/-- `ARTNET_UDP_PORT`: the transport's, recorded for the reader only (R6). -/
def artnetUdpPort : Nat := 6454

/-- `CMD_WIDTH`: the width of a command word in bits. -/
def cmdWidth : Nat := 32

/-- `RESP_DATA_WIDTH`: the width of a response's data in bits. -/
def respDataWidth : Nat := 16

/-- `tx_ok` (R7): the transport's answer to the `n`-th offered packet, "drawn freshly at every send step
and under no law" (92_eei_decisions.md D14). A free value: it has no body, so nothing can be proved of it.
DESIGN CHOICE of the form, log entry 3; safe. -/
opaque txOk : Nat → Bool

end Sys2Proof.Config
end

