-- ==== Sys2Proof/Syntax.lean ====
section
/-! DEFINITION. The nine commands of the opcode map (spec/30_encoding.md R55, spec/opcode_table.json),
one constructor each, with the immediate fields of R52 at their own widths. No command has a register
operand (R54). -/

namespace Sys2Proof

/-- A command of the block. -/
inductive Instr where
  /-- NOP: no operation (41_config.md R61). -/
  | nop
  /-- SETLED n: configure the LED count (41_config.md R62). -/
  | setled (n : Half)
  /-- SETUNIV u: configure the data universe (41_config.md R63). -/
  | setuniv (u : Half)
  /-- WRBYTE a, v: write one payload byte (42_buffer.md R64). -/
  | wrbyte (a : PbufAddr) (v : Byte)
  /-- RDBYTE a: read one payload byte back (42_buffer.md R65). -/
  | rdbyte (a : PbufAddr)
  /-- CLEAR: zero the payload buffer (42_buffer.md R66). -/
  | clear
  /-- SENDFRAME: offer the frame on the data universe (43_transmit.md R69). -/
  | sendframe
  /-- SENDDIM b: offer a one-byte packet on universe 15 (43_transmit.md R70). -/
  | senddim (b : Byte)
  /-- RDREG sel: read one register (44_readback.md R75). -/
  | rdreg (sel : BitVec 2)
  deriving DecidableEq, Repr

/-- The mnemonic of a command, as the opcode map spells it (R55). -/
def Instr.mnemonic : Instr → String
  | .nop => "NOP"
  | .setled _ => "SETLED"
  | .setuniv _ => "SETUNIV"
  | .wrbyte _ _ => "WRBYTE"
  | .rdbyte _ => "RDBYTE"
  | .clear => "CLEAR"
  | .sendframe => "SENDFRAME"
  | .senddim _ => "SENDDIM"
  | .rdreg _ => "RDREG"

/-- The six formats of a command word (R52). -/
inductive Format where
  | z | n16 | av | a | b8 | s2
  deriving DecidableEq, Repr

/-- The format of a command (R55). -/
def Instr.format : Instr → Format
  | .nop => .z
  | .setled _ => .n16
  | .setuniv _ => .n16
  | .wrbyte _ _ => .av
  | .rdbyte _ => .a
  | .clear => .z
  | .sendframe => .z
  | .senddim _ => .b8
  | .rdreg _ => .s2

/-- The opcode `w[31:28]` of a command (R55). -/
def Instr.opcode : Instr → BitVec 4
  | .nop => 0x0
  | .setled _ => 0x1
  | .setuniv _ => 0x2
  | .wrbyte _ _ => 0x3
  | .rdbyte _ => 0x4
  | .clear => 0x5
  | .sendframe => 0x6
  | .senddim _ => 0x7
  | .rdreg _ => 0x8

end Sys2Proof
end

