-- ==== Sys2Proof/WellFormed.lean ====
section
/-! DEFINITION. Which terms of `Instr` are commands of the opcode map. Every field but one may hold every
value of its width (spec/30_encoding.md R53, R54); the one check is RDREG's `sel ≠ 3` (R55). -/

namespace Sys2Proof

/-- The command is one of the opcode map: RDREG's `sel` is not 3 (R55, R56). -/
def Instr.wellFormed : Instr → Bool
  | .nop => true
  | .setled _ => true
  | .setuniv _ => true
  | .wrbyte _ _ => true
  | .rdbyte _ => true
  | .clear => true
  | .sendframe => true
  | .senddim _ => true
  | .rdreg sel => sel != 3

end Sys2Proof
end

