-- ==== Sys2Proof/Decode.lean ====
section
/-! DEFINITION. The decoder of command words, total on all 2^32 words (spec/30_encoding.md R51 to R58), the
encoder written from the same patterns (R52), and the opcode table as spec/opcode_table.json gives it. -/

namespace Sys2Proof

/-- Why a word is illegal: the three cases of R56. The step does the same for all three (R80).
The names are the model's: DESIGN CHOICE, log entry 11; safe. -/
inductive IllegalWord where
  /-- The opcode is in `0x9 .. 0xF`. -/
  | reservedOpcode
  /-- A reserved bit of the word's format is 1. -/
  | reservedBit
  /-- The word is RDREG with `sel = 3`. -/
  | selThree
  deriving DecidableEq, Repr

/-- `op = w[31:28]` (R51). -/
def opField (w : CmdWord) : BitVec 4 := w.extractLsb' 28 4

/-- `n = w[15:0]` of format N16 (R52). -/
def nField (w : CmdWord) : Half := w.extractLsb' 0 16

/-- `a = w[24:16]` of formats AV and A (R52, R53). -/
def aField (w : CmdWord) : PbufAddr := w.extractLsb' 16 9

/-- `v = w[7:0]` of format AV and `b = w[7:0]` of format B8 (R52). -/
def byteField (w : CmdWord) : Byte := w.extractLsb' 0 8

/-- `sel = w[1:0]` of format S2 (R52). -/
def selField (w : CmdWord) : BitVec 2 := w.extractLsb' 0 2

/-- Every reserved bit of the format is 0 in the word (R52). -/
def Format.reservedClear : Format → CmdWord → Bool
  | .z, w => w.extractLsb' 0 28 == 0
  | .n16, w => w.extractLsb' 16 12 == 0
  | .av, w => w.extractLsb' 25 3 == 0 && w.extractLsb' 8 8 == 0
  | .a, w => w.extractLsb' 25 3 == 0 && w.extractLsb' 0 16 == 0
  | .b8, w => w.extractLsb' 8 20 == 0
  | .s2, w => w.extractLsb' 2 26 == 0

/-- The command that an opcode and the fields spell, before the reserved bits are looked at; none for a
reserved opcode (R55). -/
def fieldsOf (w : CmdWord) : Option Instr :=
  match (opField w).toNat with
  | 0 => some .nop
  | 1 => some (.setled (nField w))
  | 2 => some (.setuniv (nField w))
  | 3 => some (.wrbyte (aField w) (byteField w))
  | 4 => some (.rdbyte (aField w))
  | 5 => some .clear
  | 6 => some .sendframe
  | 7 => some (.senddim (byteField w))
  | 8 => some (.rdreg (selField w))
  | _ => none

/-- The decoder (R57): the command the word selects, or why the word is illegal (R56). -/
def decode (w : CmdWord) : Except IllegalWord Instr :=
  match fieldsOf w with
  | none => .error .reservedOpcode
  | some i =>
    if i.format.reservedClear w = false then .error .reservedBit
    else if i.wellFormed = false then .error .selThree
    else .ok i

/-- The word of a command: the patterns of R52, most significant bit first. -/
def encode : Instr → CmdWord
  | .nop => 0x0#4 ++ 0#28
  | .setled n => 0x1#4 ++ 0#12 ++ n
  | .setuniv u => 0x2#4 ++ 0#12 ++ u
  | .wrbyte a v => 0x3#4 ++ 0#3 ++ a ++ 0#8 ++ v
  | .rdbyte a => 0x4#4 ++ 0#3 ++ a ++ 0#16
  | .clear => 0x5#4 ++ 0#28
  | .sendframe => 0x6#4 ++ 0#28
  | .senddim b => 0x7#4 ++ 0#20 ++ b
  | .rdreg sel => 0x8#4 ++ 0#26 ++ sel

/-- One row of the opcode map (R55). -/
structure OpcodeRow where
  mnemonic : String
  /-- The row's `match` column. -/
  bits : CmdWord
  mask : CmdWord
  /-- The words that `bits` and `mask` select and the row does not. -/
  excluded : List CmdWord
  deriving DecidableEq, Repr

/-- The opcode map of R55, as spec/opcode_table.json lists it. -/
def opcodeTable : List OpcodeRow :=
  [ ⟨"NOP", 0x00000000, 0xFFFFFFFF, []⟩,
    ⟨"SETLED", 0x10000000, 0xFFFF0000, []⟩,
    ⟨"SETUNIV", 0x20000000, 0xFFFF0000, []⟩,
    ⟨"WRBYTE", 0x30000000, 0xFE00FF00, []⟩,
    ⟨"RDBYTE", 0x40000000, 0xFE00FFFF, []⟩,
    ⟨"CLEAR", 0x50000000, 0xFFFFFFFF, []⟩,
    ⟨"SENDFRAME", 0x60000000, 0xFFFFFFFF, []⟩,
    ⟨"SENDDIM", 0x70000000, 0xFFFFFF00, []⟩,
    ⟨"RDREG", 0x80000000, 0xFFFFFFFC, [0x80000003]⟩ ]

/-- A word selects a row when `(w & mask) == match` and the row does not exclude it (R55, R57). -/
def OpcodeRow.selects (r : OpcodeRow) (w : CmdWord) : Bool :=
  w &&& r.mask == r.bits && !r.excluded.contains w

/-- The command word of an instruction whose bits are `w`, of which the table numbers `nbits`: one word of
32 bits (R58), the bits from `nbits` up being 0. -/
def tableWord (nbits w : Nat) : CmdWord := BitVec.ofNat 32 (w % 2 ^ nbits)

/-- The instruction the decoder reads from an instruction of the opcode table; none for an illegal word, and
none for anything longer than the one word a command has (R58). -/
def decodeTableWord (nbits w : Nat) : Option Instr :=
  if nbits ≤ Config.cmdWidth then
    match decode (tableWord nbits w) with
    | .ok i => some i
    | .error _ => none
  else none

end Sys2Proof
end

