-- ==== Sys2Proof/Machine/State.lean ====
section
/-! DEFINITION. The state of the block, the histories a model records, the environment's data, and the state
after reset (spec/10_state.md; spec/70_reset_and_hazards.md R94). -/

namespace Sys2Proof.Machine

/-- A packet: its bytes, offset 0 first (00_scope.md R11). -/
abbrev Packet := List Byte

/-- PBUF (10_state.md R22), as the list of its nonzero bytes, addresses strictly rising. A byte that is not
listed reads 0, its reset value (R22, R94). Log entry 7. -/
abbrev Memory := List Host.Cell

/-- The four response codes (60_exceptions.md R76). -/
inductive RespCode where
  /-- The command completed. -/
  | ok
  /-- Raised by SETLED (R78). -/
  | encodingError
  /-- Raised by SENDFRAME and SENDDIM (R79). -/
  | networkUnavailable
  /-- Raised by the decoder for an illegal word (R80). -/
  | illegalCommand
  deriving DecidableEq, Repr

/-- The response of one command (60_exceptions.md R76). -/
structure Response where
  code : RespCode
  data : Half
  deriving DecidableEq, Repr

/-- What the host may do between two steps: issue one command word (00_scope.md R5), or reset the block, a
step of its own taken only between commands (70_reset_and_hazards.md R95). -/
inductive HostEvent where
  | command (w : CmdWord)
  | reset
  deriving DecidableEq, Repr

/-- The state. The first four fields are the block's registers and its buffer, `wire` and `resp` are the two
histories of 10_state.md R24, and the last three hold the environment and are the model's own. -/
structure State where
  /-- `SEQ`, the sequence counter (10_state.md R16). -/
  seq : BitVec 8
  /-- `DATA_UNIV`, the data universe (10_state.md R17). -/
  dataUniv : BitVec 16
  /-- `LED_COUNT`, the number of pixels, legal in 1..170 (10_state.md R18). -/
  ledCount : BitVec 8
  /-- `PBUF`, the payload buffer (10_state.md R22). -/
  pbuf : Memory
  /-- `WIRE`, the packets the transport accepted, oldest first (10_state.md R24). -/
  wire : List Packet
  /-- `RESP`, the responses, oldest first (10_state.md R24). -/
  resp : List Response
  /-- The model's own: what the host issues from here on, next first (log entry 1). -/
  hostPort : List HostEvent
  /-- The model's own: answers of the transport given from outside, next first (log entry 3). -/
  txScript : List Bool
  /-- The model's own: how many packets have been offered, the index of the next free draw (log entry 3). -/
  offers : Nat
  deriving DecidableEq, Repr

/-- Why the machine may stop with a fault. -/
inductive Fault where
  /-- `EncodeDmx` was called outside its domain of 1 to 512 payload bytes, where it "has no value"
  (43_transmit.md R67). Raised by SENDFRAME in a state whose LED_COUNT is outside 1..170, which no run reaches
  (R68, 10_state.md R18). Safe: the model stops where the spec gives nothing. Log entry 6. -/
  | encodeDmxOutsideDomain
  deriving DecidableEq, Repr

/-- Why an instruction may be refused. -/
inductive Refusal where
  /-- The instruction has no meaning in the model yet. Raised by `exec` alone, and by no arm of it now. Safe. -/
  | notModelled (mnemonic : String)
  deriving DecidableEq, Repr

/-- The state after reset (70_reset_and_hazards.md R94). The last three fields are the environment's: the host
has issued nothing and the transport has answered nothing (DESIGN CHOICE, log entries 1 and 3). -/
def State.reset : State where
  seq := 0
  dataUniv := Config.defaultDataUniv
  ledCount := Config.defaultLeds
  pbuf := []
  wire := []
  resp := []
  hostPort := []
  txScript := []
  offers := 0

end Sys2Proof.Machine
end

