-- ==== Sys2Proof/Machine/Packet.lean ====
section
/-! DEFINITION. The Art-Net OpDmx packet (spec/30_encoding.md Part A): the byte-order helpers, the
serialization function `EncodeDmx` (spec/43_transmit.md R67) and the reading back of a packet (R50). -/

namespace Sys2Proof.Machine

/-- `le16(v) = [v[7:0], v[15:8]]` (00_scope.md R10; the meaning of the word is general knowledge by the
spec's own note GK1: PRESUMED, log entry 10). -/
def le16 (v : Half) : List Byte := [v.extractLsb' 0 8, v.extractLsb' 8 8]

/-- `be16(v) = [v[15:8], v[7:0]]` (00_scope.md R10; as `le16`). -/
def be16 (v : Half) : List Byte := [v.extractLsb' 8 8, v.extractLsb' 0 8]

/-- Bytes 0..17 of a packet with sequence value `s`, universe `u` and a payload of `len` bytes
(30_encoding.md R40 to R47). -/
def packetHeader (s : Byte) (u : Half) (len : Nat) : List Byte :=
  Config.artnetId ++ le16 Config.opcodeDmx ++ be16 Config.protVer ++ [s] ++ [Config.physical]
    ++ le16 u ++ be16 (BitVec.ofNat 16 len)

/-- `EncodeDmx(P, s, u)` (43_transmit.md R67): the packet, or none outside the domain of 1 to 512 bytes. -/
def encodeDmx (payload : List Byte) (s : Byte) (u : Half) : Option Packet :=
  if 1 ≤ payload.length ∧ payload.length ≤ Config.maxDmxLen then
    some (packetHeader s u payload.length ++ payload)
  else none

/-- Byte `k` of a packet. -/
def byteAt (pkt : Packet) (k : Nat) : Byte := pkt.getD k 0

/-- What reading a packet back gives (30_encoding.md R50). -/
structure ParsedPacket where
  sequence : Byte
  universe_ : Half
  length : Nat
  payload : List Byte
  deriving DecidableEq, Repr

/-- Reading a packet back (30_encoding.md R50): `s` is byte 12, `u` is byte 14 + 256 * byte 15, `L` is
256 * byte 16 + byte 17, and the payload is bytes 18 .. 17+L. -/
def parsePacket (pkt : Packet) : ParsedPacket :=
  let len := 256 * (byteAt pkt 16).toNat + (byteAt pkt 17).toNat
  { sequence := byteAt pkt 12
    universe_ := BitVec.ofNat 16 ((byteAt pkt 14).toNat + 256 * (byteAt pkt 15).toNat)
    length := len
    payload := (pkt.drop Config.headerLen).take len }

end Sys2Proof.Machine
end

