-- ==== Sys2Proof/Machine/Ops.lean ====
section
/-! DEFINITION. The named operations over the payload buffer, the registers, the response, the transport and
the command port (spec/00_scope.md R9), raising an error among them (spec/60_exceptions.md R77). -/

namespace Sys2Proof.Machine

/-! ### The payload buffer -/

/-- Byte `a` of the buffer; a byte that is not listed reads 0 (10_state.md R22). -/
def Memory.read : Memory → Nat → Byte
  | [], _ => 0
  | (b, x) :: m, a => if a = b then x else Memory.read m a

/-- Write byte `a` of the buffer, keeping the canonical form: a 0 is not listed. -/
def Memory.write : Memory → Nat → Byte → Memory
  | [], a, v => if v = 0 then [] else [(a, v)]
  | (b, x) :: m, a, v =>
    if a < b then (if v = 0 then (b, x) :: m else (a, v) :: (b, x) :: m)
    else if a = b then (if v = 0 then m else (a, v) :: m)
    else (b, x) :: Memory.write m a v

/-- The buffer with every byte 0 (42_buffer.md R66). -/
def Memory.clear : Memory := []

/-- The canonical form from address `lo` up: addresses strictly rising, below PBUF_SIZE (20_memory.md R25), and
no listed byte 0. -/
def Memory.wfFrom (lo : Nat) : Memory → Bool
  | [] => true
  | (a, v) :: m => decide (lo ≤ a) && decide (a < Config.pbufSize) && v != 0 && Memory.wfFrom (a + 1) m

/-- The canonical form of the buffer. -/
def Memory.wf (m : Memory) : Bool := Memory.wfFrom 0 m

/-! ### Updates of one field -/

/-- `SEQ <- v`. -/
def State.setSeq (s : State) (v : Byte) : State := { s with seq := v }

/-- `DATA_UNIV <- v`. -/
def State.setDataUniv (s : State) (v : Half) : State := { s with dataUniv := v }

/-- `LED_COUNT <- v`. -/
def State.setLedCount (s : State) (v : Byte) : State := { s with ledCount := v }

/-- Replace the whole buffer. -/
def State.setPbuf (s : State) (m : Memory) : State := { s with pbuf := m }

/-- `WIRE <- WIRE ++ [pkt]` (43_transmit.md R69). -/
def State.appendWire (s : State) (pkt : Packet) : State := { s with wire := s.wire ++ [pkt] }

/-- `PBUF[a]` (00_scope.md R9). -/
def State.readPbuf (s : State) (a : PbufAddr) : Byte := s.pbuf.read a.toNat

/-- `PBUF[a] <- v` (00_scope.md R9). -/
def State.writePbuf (s : State) (a : PbufAddr) (v : Byte) : State := s.setPbuf (s.pbuf.write a.toNat v)

/-- `for a in 0 .. 511: PBUF[a] <- 0` (42_buffer.md R66). -/
def State.clearPbuf (s : State) : State := s.setPbuf Memory.clear

/-! ### Responses and errors -/

/-- `respond(code, data)`: the command's one response (60_exceptions.md R76). -/
def State.respond (s : State) (code : RespCode) (data : Half) : State :=
  { s with resp := s.resp ++ [⟨code, data⟩] }

/-- `raise E`: the response `(code(E), 0)` and nothing else (60_exceptions.md R77). The block has no other
error entry, no trap and no return from one (R83, R84). -/
def State.raise (s : State) (e : RespCode) : State := s.respond e 0

/-! ### The transport -/

/-- The answer the transport gives to the packet offered now (00_scope.md R7): the next one given from outside,
or else the free draw of this offer (log entry 3). -/
def State.txAnswer (s : State) : Bool := s.txScript.head?.getD (Config.txOk s.offers)

/-- The environment after it has answered one offer: the next send draws afresh (R7). -/
def State.useAnswer (s : State) : State := { s with txScript := s.txScript.tail, offers := s.offers + 1 }

/-- `(SEQ + 1) mod 256` (43_transmit.md R71). -/
def State.nextSeq (s : State) : Byte := BitVec.ofNat 8 ((s.seq.toNat + 1) % Config.seqMod)

/-- An accepted send (43_transmit.md R69, R70): the packet goes on WIRE, SEQ advances, and the response carries
the sequence value the packet used. -/
def State.acceptPacket (s : State) (pkt : Packet) : State :=
  ((s.appendWire pkt).setSeq s.nextSeq).respond .ok (s.seq.setWidth 16)

/-- `Offer(pkt)` and what follows it (43_transmit.md R69, R70): the transport's answer decides between an
accepted send and `raise NetworkUnavailable`. The packet is offered once (R74). -/
def State.offerPacket (s : State) (pkt : Packet) : State :=
  if s.txAnswer then s.useAnswer.acceptPacket pkt else s.useAnswer.raise .networkUnavailable

/-- One send step: build the packet from a payload and a universe with the current SEQ, and offer it
(43_transmit.md R69, R70). -/
def State.send (s : State) (payload : List Byte) (u : Half) : Host.Outcome State Fault Refusal :=
  match encodeDmx payload s.seq u with
  | some pkt => .next (s.offerPacket pkt)
  | none => .fault .encodeDmxOutsideDomain

/-! ### The command port and reset -/

/-- The host's next event and the state without it; none when the host has issued nothing. -/
def State.nextEvent (s : State) : Option (HostEvent × State) :=
  match s.hostPort with
  | [] => none
  | e :: rest => some (e, { s with hostPort := rest })

/-- No command is on the port: "Between commands it holds its state unchanged" (60_exceptions.md R93).
DEDUCED, log entry 2; safe. -/
def State.idle (s : State) : State := s

/-- The reset step (70_reset_and_hazards.md R94, R95): the block and the histories take their reset values; what
the host and the transport do next is not the block's and stays (DEDUCED, log entry 5; safe). -/
def State.takeReset (s : State) : State :=
  { State.reset with hostPort := s.hostPort, txScript := s.txScript, offers := s.offers }

/-- The step of an illegal word, for whichever reason: `raise IllegalCommand` (30_encoding.md R56;
60_exceptions.md R80). -/
def State.illegal (s : State) : State := s.raise .illegalCommand

/-- The host issues `w` next, before anything else it has to issue. -/
def State.issue (s : State) (w : CmdWord) : State := { s with hostPort := .command w :: s.hostPort }

end Sys2Proof.Machine
end

