-- ==== Sys2Proof/Machine/Operands.lean ====
section
/-! DEFINITION. What commands read as operands: the zero extensions to the response's 16 bits
(spec/00_scope.md R8), the frame (spec/10_state.md R19), the registers RDREG selects (spec/44_readback.md R75) and
the legal LED counts (spec/41_config.md R62). Immediates are plain fields of `Instr`, unsigned and unscaled
(spec/30_encoding.md R54). -/

namespace Sys2Proof.Machine

/-- `zext_16` of a byte. -/
def zext16 (b : Byte) : Half := b.setWidth 16

/-- SETLED accepts the count `n` (41_config.md R62). -/
def ledCountLegal (n : Half) : Bool := decide (Config.minLeds ≤ n.toNat) && decide (n.toNat ≤ Config.maxLeds)

/-- `FRAME_LEN = 3 * LED_COUNT`, computed at each SENDFRAME (10_state.md R19). -/
def State.frameLen (s : State) : Nat := Config.bytesPerPixel * s.ledCount.toNat

/-- `[PBUF[0], ..., PBUF[L-1]]` with `L = FRAME_LEN` (43_transmit.md R69; 20_memory.md R31). With a LED_COUNT
above 170, which no run reaches, L is over PBUF_SIZE and `encodeDmx` gives no packet of it. -/
def State.frame (s : State) : List Byte := (List.range s.frameLen).map s.pbuf.read

/-- The register RDREG selects, as 16 bits; none for `sel = 3` (44_readback.md R75). -/
def State.readReg (s : State) (sel : BitVec 2) : Option Half :=
  match sel.toNat with
  | 0 => some (zext16 s.seq)
  | 1 => some s.dataUniv
  | 2 => some (zext16 s.ledCount)
  | _ => none

end Sys2Proof.Machine
end

