-- ==== Sys2Proof/Machine/Flags.lean ====
section
/-! DEFINITION. The block has no status flags and no condition codes (spec/10_state.md R14). What a command
reports is its response code, whose numbers stand here (spec/60_exceptions.md R76). -/

namespace Sys2Proof.Machine

/-- The number of a response code, two bits (60_exceptions.md R76). -/
def RespCode.bits : RespCode → BitVec 2
  | .ok => 0
  | .encodingError => 1
  | .networkUnavailable => 2
  | .illegalCommand => 3

/-- A response as the pair the host reads: the code's number and the data (60_exceptions.md R76). -/
def Response.pair (r : Response) : BitVec 2 × Half := (r.code.bits, r.data)

end Sys2Proof.Machine
end

