-- ==== Sys2Proof/Machine/Buffer.lean ====
section
/-! DEFINITION. The payload buffer commands WRBYTE, RDBYTE and CLEAR (spec/42_buffer.md R64 to R66). -/

namespace Sys2Proof.Machine

/-- WRBYTE a, v (R64). -/
def execWrbyte (a : PbufAddr) (v : Byte) (s : State) : Host.Outcome State Fault Refusal :=
  .next ((s.writePbuf a v).respond .ok 0)

/-- RDBYTE a (R65). -/
def execRdbyte (a : PbufAddr) (s : State) : Host.Outcome State Fault Refusal :=
  .next (s.respond .ok (zext16 (s.readPbuf a)))

/-- CLEAR (R66). -/
def execClear (s : State) : Host.Outcome State Fault Refusal := .next (s.clearPbuf.respond .ok 0)

end Sys2Proof.Machine
end

