-- ==== Sys2Proof/Machine/Configure.lean ====
section
/-! DEFINITION. The configuration commands NOP, SETLED and SETUNIV (spec/41_config.md R61 to R63). -/

namespace Sys2Proof.Machine

/-- NOP (R61). -/
def execNop (s : State) : Host.Outcome State Fault Refusal := .next (s.respond .ok 0)

/-- SETLED n (R62). The count is legal in 1..170, so its low 8 bits hold it (10_state.md R18). -/
def execSetled (n : Half) (s : State) : Host.Outcome State Fault Refusal :=
  .next (if ledCountLegal n then (s.setLedCount (n.setWidth 8)).respond .ok 0 else s.raise .encodingError)

/-- SETUNIV u (R63): every u is legal. -/
def execSetuniv (u : Half) (s : State) : Host.Outcome State Fault Refusal :=
  .next ((s.setDataUniv u).respond .ok 0)

end Sys2Proof.Machine
end

