-- ==== Sys2Proof/Machine/Readback.lean ====
section
/-! DEFINITION. The register readback command RDREG (spec/44_readback.md R75). -/

namespace Sys2Proof.Machine

/-- RDREG sel (R75). The decoder rejects `sel = 3`; were it to come here, the spec's own pseudocode raises
IllegalCommand. -/
def execRdreg (sel : BitVec 2) (s : State) : Host.Outcome State Fault Refusal :=
  .next (match s.readReg sel with
    | some v => s.respond .ok v
    | none => s.raise .illegalCommand)

end Sys2Proof.Machine
end

