-- ==== Sys2Proof/Machine/Transmit.lean ====
section
/-! DEFINITION. The transmit commands SENDFRAME and SENDDIM (spec/43_transmit.md R69, R70). -/

namespace Sys2Proof.Machine

/-- SENDFRAME (R69): the frame, on the data universe. -/
def execSendframe (s : State) : Host.Outcome State Fault Refusal := s.send s.frame s.dataUniv

/-- SENDDIM b (R70): one byte, on the dimmer universe. -/
def execSenddim (b : Byte) (s : State) : Host.Outcome State Fault Refusal := s.send [b] Config.dimmerUniv

end Sys2Proof.Machine
end

