-- ==== Sys2Proof/Machine/Dispatch.lean ====
section
/-! DEFINITION. One arm per command: the direct call of its meaning. -/

namespace Sys2Proof.Machine

def exec (i : Instr) (s : State) : Host.Outcome State Fault Refusal :=
  match i with
  -- spec/41_config.md
  | .nop => Sys2Proof.Machine.execNop s
  | .setled n => Sys2Proof.Machine.execSetled n s
  | .setuniv u => Sys2Proof.Machine.execSetuniv u s
  -- spec/42_buffer.md
  | .wrbyte a v => Sys2Proof.Machine.execWrbyte a v s
  | .rdbyte a => Sys2Proof.Machine.execRdbyte a s
  | .clear => Sys2Proof.Machine.execClear s
  -- spec/43_transmit.md
  | .sendframe => Sys2Proof.Machine.execSendframe s
  | .senddim b => Sys2Proof.Machine.execSenddim b s
  -- spec/44_readback.md
  | .rdreg sel => Sys2Proof.Machine.execRdreg sel s

end Sys2Proof.Machine
end

