-- ==== Sys2Proof/Machine/Step.lean ====
section
/-! DEFINITION. One step: the block takes the host's next event (spec/00_scope.md R5, R9). The block has no
program counter and fetches no instructions (spec/10_state.md R13; spec/20_memory.md R38): commands come from the
host's port. -/

namespace Sys2Proof.Machine

/-- What the block does with one command word: decode it, then run the command, or raise IllegalCommand
(30_encoding.md R57; 60_exceptions.md R80, R82). -/
def runWord (w : CmdWord) (s : State) : Host.Outcome State Fault Refusal :=
  match decode w with
  | .ok i => exec i s
  | .error _ => .next s.illegal

/-- One step of the machine: a command (R9), a reset (70_reset_and_hazards.md R95), or, with nothing issued,
no change (60_exceptions.md R93). -/
def step (s : State) : Host.Outcome State Fault Refusal :=
  match s.nextEvent with
  | none => .next s.idle
  | some (.reset, s') => .next s'.takeReset
  | some (.command w, s') => runWord w s'

/-- The state in which the host issues the opcode table's instruction `w` next (log entry 1). -/
def State.withFetchWord (s : State) (nbits w : Nat) : State := s.issue (tableWord nbits w)

end Sys2Proof.Machine
end

