-- ==== Sys2Proof/Machine/Assembler.lean ====
section
/-! DEFINITION. The assembler's text and the pseudo-instructions (spec/30_encoding.md R59, R60). They stand
outside the block: an assembler turns a line into the command words the host issues. What R59 leaves open (capitals,
blanks, empty lines) is log entry 9. -/

namespace Sys2Proof.Asm

/-- Why a line does not assemble. -/
inductive AsmError where
  /-- No command or pseudo-instruction has this name. -/
  | unknownMnemonic
  /-- Too few or too many operands, or one that is no number and no register name. -/
  | badOperands
  /-- "An operand outside its field width ... is an assembly error. It is never truncated." (R59), and the bounds
  of the pseudo-instructions (R60). -/
  | operandRange
  deriving DecidableEq, Repr

/-- A line's command or pseudo-instruction, with its operands as the numbers the line gives (R59, R60). -/
inductive Stmt where
  | nop
  | setled (n : Nat)
  | setuniv (u : Nat)
  | wrbyte (a v : Nat)
  | rdbyte (a : Nat)
  | clear
  | sendframe
  | senddim (b : Nat)
  | rdreg (sel : Nat)
  | wrpix (i r g b : Nat)
  | off
  | setup (n u : Nat)
  | fill (k r g b : Nat)
  deriving DecidableEq, Repr

/-- An operand in a field of `w` bits; an error when it does not fit (R59). -/
def field (w n : Nat) : Except AsmError (BitVec w) :=
  if n < 2 ^ w then .ok (BitVec.ofNat w n) else .error .operandRange

/-- The three bytes of a pixel: red, green, blue at `3*i`, `3*i+1`, `3*i+2` (R60; 20_memory.md R33). -/
def pixelWrites (i : Nat) (r g b : Byte) : List Instr :=
  [.wrbyte (BitVec.ofNat 9 (3 * i)) r, .wrbyte (BitVec.ofNat 9 (3 * i + 1)) g,
    .wrbyte (BitVec.ofNat 9 (3 * i + 2)) b]

/-- `OFF` (R60): the clear-and-off frame. -/
def offCommands : List Instr := [.clear, .sendframe]

/-- `SETUP n, u` (R60): session setup. -/
def setupCommands (n u : Half) : List Instr := [.setled n, .setuniv u, .clear, .sendframe]

/-- `FILL k, r, g, b` (R60): the first `k` pixels, in ascending order. -/
def fillCommands (k : Nat) (r g b : Byte) : List Instr := (List.range k).flatMap fun i => pixelWrites i r g b

/-- The commands a line stands for (R59, R60). RDREG takes every value of its 2-bit field, 3 among them, whose
word the block then finds illegal (DEDUCED, log entry 9). -/
def Stmt.expand : Stmt → Except AsmError (List Instr)
  | .nop => .ok [.nop]
  | .setled n => do return [.setled (← field 16 n)]
  | .setuniv u => do return [.setuniv (← field 16 u)]
  | .wrbyte a v => do return [.wrbyte (← field 9 a) (← field 8 v)]
  | .rdbyte a => do return [.rdbyte (← field 9 a)]
  | .clear => .ok [.clear]
  | .sendframe => .ok [.sendframe]
  | .senddim b => do return [.senddim (← field 8 b)]
  | .rdreg sel => do return [.rdreg (← field 2 sel)]
  | .wrpix i r g b => if i ≤ 169 then do return pixelWrites i (← field 8 r) (← field 8 g) (← field 8 b)
      else .error .operandRange
  | .off => .ok offCommands
  | .setup n u => do return setupCommands (← field 16 n) (← field 16 u)
  | .fill k r g b => if 1 ≤ k ∧ k ≤ 170 then do return fillCommands k (← field 8 r) (← field 8 g) (← field 8 b)
      else .error .operandRange

/-- The words a line stands for. -/
def Stmt.words (st : Stmt) : Except AsmError (List CmdWord) := do return (← st.expand).map encode

/-! ### The text of a line -/

/-- A blank between the parts of a line. -/
def isBlank (c : Char) : Bool := c == ' ' || c == '\t' || c == '\r' || c == '\n'

/-- The text without blanks at either end. -/
def trim (cs : List Char) : List Char := ((cs.dropWhile isBlank).reverse.dropWhile isBlank).reverse

/-- The text's parts between commas. -/
def splitCommas : List Char → List (List Char)
  | [] => [[]]
  | c :: cs =>
    if c = ',' then [] :: splitCommas cs
    else match splitCommas cs with
      | [] => [[c]]
      | part :: parts => (c :: part) :: parts

/-- The value of a digit in a base of at most 16. -/
def digit (base : Nat) (c : Char) : Option Nat :=
  let v := if '0' ≤ c ∧ c ≤ '9' then c.toNat - '0'.toNat
    else if 'A' ≤ c ∧ c ≤ 'F' then c.toNat - 'A'.toNat + 10
    else if 'a' ≤ c ∧ c ≤ 'f' then c.toNat - 'a'.toNat + 10
    else base
  if v < base then some v else none

/-- The digits' number, most significant digit first, after those already read. -/
def digitsFrom (base acc : Nat) : List Char → Option Nat
  | [] => some acc
  | c :: cs => (digit base c).bind fun d => digitsFrom base (base * acc + d) cs

/-- A decimal number, or a hexadecimal one after `0x` (R59). -/
def number : List Char → Option Nat
  | [] => none
  | '0' :: 'x' :: c :: cs => digitsFrom 16 0 (c :: cs)
  | cs => digitsFrom 10 0 cs

/-- RDREG's operand: a number, or one of the names SEQ, UNIV and LEDS (R59). -/
def selOperand (cs : List Char) : Option Nat :=
  if cs = "SEQ".toList then some 0
  else if cs = "UNIV".toList then some 1
  else if cs = "LEDS".toList then some 2
  else number cs

/-- The statement a name and its operand texts spell (R59, R60). -/
def stmtOf (name : List Char) (ops : List (List Char)) : Except AsmError Stmt :=
  let known := ["NOP", "SETLED", "SETUNIV", "WRBYTE", "RDBYTE", "CLEAR", "SENDFRAME", "SENDDIM", "RDREG", "WRPIX", "OFF",
    "SETUP", "FILL"]
  let operand := if name = "RDREG".toList then selOperand else number
  match known.findIdx? fun m => m.toList = name with
  | none => .error .unknownMnemonic
  | some k =>
    match ops.mapM operand with
    | none => .error .badOperands
    | some vals =>
      match k, vals with
      | 0, [] => .ok .nop
      | 1, [n] => .ok (.setled n)
      | 2, [u] => .ok (.setuniv u)
      | 3, [a, v] => .ok (.wrbyte a v)
      | 4, [a] => .ok (.rdbyte a)
      | 5, [] => .ok .clear
      | 6, [] => .ok .sendframe
      | 7, [b] => .ok (.senddim b)
      | 8, [sel] => .ok (.rdreg sel)
      | 9, [i, r, g, b] => .ok (.wrpix i r g b)
      | 10, [] => .ok .off
      | 11, [n, u] => .ok (.setup n u)
      | 12, [k, r, g, b] => .ok (.fill k r g b)
      | _, _ => .error .badOperands

/-- The words of one line: the mnemonic, then its operands separated by commas; `;` starts a comment (R59). A line
with no command stands for no word. -/
def assembleLine (line : String) : Except AsmError (List CmdWord) :=
  let body := trim (line.toList.takeWhile (· != ';'))
  if body = [] then .ok []
  else
    let rest := trim (body.dropWhile fun c => !isBlank c)
    let ops := if rest = [] then [] else (splitCommas rest).map trim
    do (← stmtOf (body.takeWhile fun c => !isBlank c) ops).words

/-- The words of a source text, given as its lines (R59: one command per line). -/
def assemble (lines : List String) : Except AsmError (List CmdWord) := do
  return (← lines.mapM assembleLine).flatten

end Sys2Proof.Asm
end

