-- ==== Sys2Proof/Safety.lean ====
section
/-! DEFINITION. The invariant of every run, in the terms the statements use: the legal LED count
(spec/10_state.md R18), the canonical buffer, the count of the sequence counter (spec/43_transmit.md R73), the
form of every packet on WIRE (R69, R70) and of every response (spec/60_exceptions.md R76, R77). -/

namespace Sys2Proof.Machine

/-- LED_COUNT holds a legal value (10_state.md R18). -/
abbrev State.LedLegal (s : State) : Prop := 1 ≤ s.ledCount.toNat ∧ s.ledCount.toNat ≤ 170

/-- `pkt` is what an accepted send with sequence value `q` puts on WIRE: a frame of 1 to 170 pixels on some
universe (43_transmit.md R69), or one byte on universe 15 (R70). -/
def IsSentPacket (q : Byte) (pkt : Packet) : Prop :=
  (∃ payload u n, payload.length = 3 * n ∧ 1 ≤ n ∧ n ≤ 170 ∧ encodeDmx payload q u = some pkt)
    ∨ ∃ b, encodeDmx [b] q 15 = some pkt

/-- The invariant of the machine. -/
structure State.Inv (s : State) : Prop where
  /-- LED_COUNT is in 1..170 (10_state.md R18). -/
  led : s.LedLegal
  /-- The buffer has its canonical form. -/
  pbuf : s.pbuf.wf = true
  /-- SEQ counts the accepted packets modulo 256 (43_transmit.md R71). -/
  seqCount : s.seq.toNat = s.wire.length % 256
  /-- The k-th packet on WIRE is a sent packet that carries `k mod 256` (43_transmit.md R73). -/
  wirePackets : ∀ k pkt, s.wire[k]? = some pkt → IsSentPacket (BitVec.ofNat 8 k) pkt
  /-- An error's response carries no data (60_exceptions.md R77). -/
  errorData : ∀ r ∈ s.resp, r.code ≠ .ok → r.data = 0

/-- The block's own part of two states agrees: registers, buffer and WIRE (60_exceptions.md R77 lists them). -/
def State.SameBlock (s t : State) : Prop :=
  t.seq = s.seq ∧ t.dataUniv = s.dataUniv ∧ t.ledCount = s.ledCount ∧ t.pbuf = s.pbuf ∧ t.wire = s.wire

/-- The command offers a packet (43_transmit.md R69, R70). -/
def IsSend : Instr → Bool
  | .sendframe => true
  | .senddim _ => true
  | .nop => false
  | .setled _ => false
  | .setuniv _ => false
  | .wrbyte _ _ => false
  | .rdbyte _ => false
  | .clear => false
  | .rdreg _ => false

end Sys2Proof.Machine
end

