-- ==== Sys2Proof/Certificates/Slice0/Obligations.lean ====
section
/-! DEFINITION. The statements for the provers, from the numbered rules of spec/. None is about a program; where one
speaks of what the transport answers, it speaks of `State.txAnswer`, which is free. -/

open Sys2Proof Sys2Proof.Machine

/-! ### Encoding -/

/-- Decoding the word of a command of the opcode map gives the command back (30_encoding.md Part B). -/
def Obligations.DecodeOfEncodeIsTheCommand : Prop :=
  ∀ i : Instr, i.wellFormed = true → decode (encode i) = .ok i

/-- A word the decoder accepts is the word of the command it gives, and that command is one of the map
(30_encoding.md Part B). -/
def Obligations.EncodeOfDecodeIsTheWord : Prop :=
  ∀ (w : CmdWord) (i : Instr), decode w = .ok i → i.wellFormed = true ∧ encode i = w

/-- R57: a word that a row's mask and match select decodes to that row's command with the fields of R52, RDREG with
`sel = 3` apart, and every other word is illegal. The rows' numbers stand here as R55 prints them. -/
def Obligations.DecoderFollowsMaskAndMatch : Prop :=
  ∀ w : CmdWord,
    (w &&& 0xFFFFFFFF = 0x00000000 → decode w = .ok .nop)
    ∧ (w &&& 0xFFFF0000 = 0x10000000 → decode w = .ok (.setled (w.extractLsb' 0 16)))
    ∧ (w &&& 0xFFFF0000 = 0x20000000 → decode w = .ok (.setuniv (w.extractLsb' 0 16)))
    ∧ (w &&& 0xFE00FF00 = 0x30000000 → decode w = .ok (.wrbyte (w.extractLsb' 16 9) (w.extractLsb' 0 8)))
    ∧ (w &&& 0xFE00FFFF = 0x40000000 → decode w = .ok (.rdbyte (w.extractLsb' 16 9)))
    ∧ (w &&& 0xFFFFFFFF = 0x50000000 → decode w = .ok .clear)
    ∧ (w &&& 0xFFFFFFFF = 0x60000000 → decode w = .ok .sendframe)
    ∧ (w &&& 0xFFFFFF00 = 0x70000000 → decode w = .ok (.senddim (w.extractLsb' 0 8)))
    ∧ (w &&& 0xFFFFFFFC = 0x80000000 → w.extractLsb' 0 2 ≠ 3 → decode w = .ok (.rdreg (w.extractLsb' 0 2)))
    ∧ ((∀ r ∈ opcodeTable, r.selects w = false) → ∃ e, decode w = .error e)

/-- R55: "At most one row selects any word", and every row fixes `op = w[31:28]`. -/
def Obligations.OpcodeRowsAreDisjoint : Prop :=
  ∀ (w : CmdWord) (r r' : OpcodeRow), r ∈ opcodeTable → r' ∈ opcodeTable →
    w &&& r.mask = r.bits → w.extractLsb' 28 4 = r.bits.extractLsb' 28 4 ∧ (w &&& r'.mask = r'.bits → r' = r)

/-- R56: a word with a reserved opcode, with a reserved bit of its format set, or RDREG with `sel = 3`, raises
IllegalCommand and changes no state; every other word is a listed command. -/
def Obligations.IllegalWordsRaiseIllegalCommand : Prop :=
  ∀ w : CmdWord,
    let op := (w.extractLsb' 28 4).toNat
    let illegal : Prop :=
      9 ≤ op
      ∨ (op = 0 ∨ op = 5 ∨ op = 6) ∧ w.extractLsb' 0 28 ≠ 0
      ∨ (op = 1 ∨ op = 2) ∧ w.extractLsb' 16 12 ≠ 0
      ∨ op = 3 ∧ (w.extractLsb' 25 3 ≠ 0 ∨ w.extractLsb' 8 8 ≠ 0)
      ∨ op = 4 ∧ (w.extractLsb' 25 3 ≠ 0 ∨ w.extractLsb' 0 16 ≠ 0)
      ∨ op = 7 ∧ w.extractLsb' 8 20 ≠ 0
      ∨ op = 8 ∧ (w.extractLsb' 2 26 ≠ 0 ∨ w.extractLsb' 0 2 = 3)
    (illegal → ∀ (s : State) (rest : List HostEvent), s.hostPort = .command w :: rest →
      step s = .next { s with hostPort := rest, resp := s.resp ++ [⟨.illegalCommand, 0⟩] })
    ∧ (¬ illegal → ∃ i, decode w = .ok i)

/-- The words that R59 and the test vectors print, one or more of every family, decode to the commands they stand for
(a sanity check). -/
def Obligations.PrintedWordsDecode : Prop :=
  decode 0x00000000 = .ok .nop ∧ decode 0x10000003 = .ok (.setled 3) ∧ decode 0x20001234 = .ok (.setuniv 0x1234)
    ∧ decode 0x31FF00AB = .ok (.wrbyte 0x1FF 0xAB) ∧ decode 0x40050000 = .ok (.rdbyte 5)
    ∧ decode 0x50000000 = .ok .clear ∧ decode 0x60000000 = .ok .sendframe
    ∧ decode 0x70000080 = .ok (.senddim 128) ∧ decode 0x80000002 = .ok (.rdreg 2)

/-! ### The step, reset and the invariant -/

/-- A step runs the decoded command: the step takes the word from the command port, and is then the command's
meaning. The port as a list is the model's (log entry 1). -/
def Obligations.StepRunsTheDecodedCommand : Prop :=
  ∀ (s : State) (w : CmdWord) (rest : List HostEvent) (i : Instr),
    s.hostPort = .command w :: rest → decode w = .ok i → step s = exec i { s with hostPort := rest }

/-- With no command on the port the block holds its state: the model's reading of 60_exceptions.md R93 (log
entry 2). -/
def Obligations.IdleStepHoldsTheState : Prop :=
  ∀ s : State, s.hostPort = [] → step s = .next s

/-- R94: what reset leaves, both in the model's state after reset and after a reset step taken between two
commands. -/
def Obligations.ResetValuesAsListed : Prop :=
  let listed (t : State) : Prop :=
    t.seq = 0 ∧ t.dataUniv = 0 ∧ t.ledCount = 30 ∧ (∀ a : PbufAddr, t.readPbuf a = 0) ∧ t.wire = [] ∧ t.resp = []
  listed State.reset
    ∧ ∀ (s : State) (rest : List HostEvent), s.hostPort = .reset :: rest → ∃ t, step s = .next t ∧ listed t

/-- The reset step takes the reset from the port and leaves what the host and the transport do next: the model's reading,
since R94 and R95 speak of the block's state alone (log entry 5). -/
def Obligations.ResetStepKeepsTheEnvironment : Prop :=
  ∀ (s : State) (rest : List HostEvent), s.hostPort = .reset :: rest → ∃ t, step s = .next t
    ∧ t.hostPort = rest ∧ t.txScript = s.txScript ∧ t.offers = s.offers

/-- The invariant of the machine holds after reset. -/
def Obligations.InvariantHoldsAtReset : Prop := State.reset.Inv

/-- Every step keeps the invariant: a legal LED count (R18), the canonical buffer, SEQ as the count of accepted packets
modulo 256 (R71), every packet on WIRE a sent packet with its number (R69, R70, R73), errors without data (R77). -/
def Obligations.StepKeepsTheInvariant : Prop :=
  ∀ s t : State, s.Inv → step s = .next t → t.Inv

/-- The block never stops: from every state that meets the invariant, every step gives a next state, whatever word is
issued and whatever the transport answers (60_exceptions.md R84; 43_transmit.md R68). -/
def Obligations.NoStepEverStops : Prop :=
  ∀ s : State, s.Inv → ∃ t, step s = .next t

/-! ### The commands -/

/-- R61: NOP answers (OK, 0) and changes nothing; its word is 0x00000000 only. -/
def Obligations.NopOnlyResponds : Prop :=
  (∀ s : State, exec .nop s = .next { s with resp := s.resp ++ [⟨.ok, 0⟩] })
    ∧ (∀ w : CmdWord, decode w = .ok .nop ↔ w = 0x00000000)
    ∧ ∀ w : CmdWord, w.extractLsb' 28 4 = 0 → w ≠ 0 → ∃ e, decode w = .error e

/-- R62: SETLED n sets LED_COUNT and answers (OK, 0) when n is in 1..170, and otherwise answers (EncodingError, 0) and
changes nothing. -/
def Obligations.SetledSetsALegalCountOrRaises : Prop :=
  ∀ n : Half,
    (∀ s : State, 1 ≤ n.toNat → n.toNat ≤ 170 → ∃ v : BitVec 8, v.toNat = n.toNat ∧
      exec (.setled n) s = .next { s with ledCount := v, resp := s.resp ++ [⟨.ok, 0⟩] })
    ∧ (∀ s : State, n.toNat > 170 ∨ n.toNat < 1 →
      exec (.setled n) s = .next { s with resp := s.resp ++ [⟨.encodingError, 0⟩] })
    ∧ ∀ w : CmdWord, decode w = .ok (.setled n) ↔ w.toNat = 0x10000000 + n.toNat

/-- R63: SETUNIV u sets DATA_UNIV, every u being legal, and answers (OK, 0). -/
def Obligations.SetunivSetsTheDataUniverse : Prop :=
  ∀ u : Half,
    (∀ s : State, exec (.setuniv u) s = .next { s with dataUniv := u, resp := s.resp ++ [⟨.ok, 0⟩] })
    ∧ ∀ w : CmdWord, decode w = .ok (.setuniv u) ↔ w.toNat = 0x20000000 + u.toNat

/-- R64: WRBYTE a, v writes byte a and no other byte, leaves everything else of the state but its response, and answers
(OK, 0). The buffer is in its canonical form before and after. -/
def Obligations.WrbyteWritesOneByte : Prop :=
  ∀ (a : PbufAddr) (v : Byte),
    (∀ s : State, s.pbuf.wf = true → ∃ m : Memory,
      exec (.wrbyte a v) s = .next { s with pbuf := m, resp := s.resp ++ [⟨.ok, 0⟩] }
      ∧ m.wf = true ∧ m.read a.toNat = v ∧ ∀ b : Nat, b ≠ a.toNat → m.read b = s.pbuf.read b)
    ∧ ∀ w : CmdWord, decode w = .ok (.wrbyte a v) ↔ w.toNat = 0x30000000 + 0x10000 * a.toNat + v.toNat

/-- R65: RDBYTE a answers (OK, the zero-extended byte a) and changes nothing. -/
def Obligations.RdbyteReturnsTheByte : Prop :=
  ∀ a : PbufAddr,
    (∀ s : State, ∃ d : Half, d.toNat = (s.pbuf.read a.toNat).toNat
      ∧ exec (.rdbyte a) s = .next { s with resp := s.resp ++ [⟨.ok, d⟩] })
    ∧ ∀ w : CmdWord, decode w = .ok (.rdbyte a) ↔ w.toNat = 0x40000000 + 0x10000 * a.toNat

/-- R66: CLEAR zeroes all 512 bytes, changes no register and sends nothing, and answers (OK, 0). -/
def Obligations.ClearZeroesTheBuffer : Prop :=
  (∀ s : State, ∃ m : Memory, exec .clear s = .next { s with pbuf := m, resp := s.resp ++ [⟨.ok, 0⟩] }
      ∧ m.wf = true ∧ ∀ b : Nat, m.read b = 0)
    ∧ ∀ w : CmdWord, decode w = .ok .clear ↔ w = 0x50000000

/-- The one-step CLEAR is the loop of R66's pseudocode: 512 byte writes of 0 to a canonical buffer leave the buffer CLEAR
leaves. -/
def Obligations.ClearIsTheLoopOfWrites : Prop :=
  ∀ s : State, s.pbuf.wf = true →
    exec .clear s = .next { s with
      pbuf := (List.range 512).foldl (fun m a => m.write a 0) s.pbuf, resp := s.resp ++ [⟨.ok, 0⟩] }

/-- R69: SENDFRAME builds the packet of PBUF[0 .. 3*LED_COUNT-1] with SEQ and DATA_UNIV. When the transport accepts it,
the packet goes on WIRE, SEQ advances modulo 256 and the answer is (OK, the old SEQ); otherwise the answer is
(NetworkUnavailable, 0) and nothing of the block changes. Either way the transport has answered once, and the next send
draws afresh (the last two fields are the model's, log entry 3). -/
def Obligations.SendframeOffersTheFrame : Prop :=
  (∀ s : State, s.LedLegal → ∃ pkt : Packet,
      encodeDmx ((List.range (3 * s.ledCount.toNat)).map fun k => s.pbuf.read k) s.seq s.dataUniv = some pkt
      ∧ exec .sendframe s = .next (if s.txAnswer then
          { s with wire := s.wire ++ [pkt], seq := BitVec.ofNat 8 ((s.seq.toNat + 1) % 256),
                   resp := s.resp ++ [⟨.ok, s.seq.setWidth 16⟩],
                   txScript := s.txScript.tail, offers := s.offers + 1 }
        else
          { s with resp := s.resp ++ [⟨.networkUnavailable, 0⟩],
                   txScript := s.txScript.tail, offers := s.offers + 1 }))
    ∧ ∀ w : CmdWord, decode w = .ok .sendframe ↔ w = 0x60000000

/-- R70: SENDDIM b builds the packet of the one byte b with SEQ and universe 15, and then does as SENDFRAME does. -/
def Obligations.SenddimOffersOneByteOnUniverse15 : Prop :=
  ∀ b : Byte,
    (∀ s : State, ∃ pkt : Packet, encodeDmx [b] s.seq 15 = some pkt
      ∧ exec (.senddim b) s = .next (if s.txAnswer then
          { s with wire := s.wire ++ [pkt], seq := BitVec.ofNat 8 ((s.seq.toNat + 1) % 256),
                   resp := s.resp ++ [⟨.ok, s.seq.setWidth 16⟩],
                   txScript := s.txScript.tail, offers := s.offers + 1 }
        else
          { s with resp := s.resp ++ [⟨.networkUnavailable, 0⟩],
                   txScript := s.txScript.tail, offers := s.offers + 1 }))
    ∧ ∀ w : CmdWord, decode w = .ok (.senddim b) ↔ w.toNat = 0x70000000 + b.toNat

/-- R75: RDREG 0, 1, 2 answers (OK, SEQ), (OK, DATA_UNIV), (OK, LED_COUNT), zero-extended, and changes nothing; the word
with `sel = 3` is illegal, and `sel = 3` itself raises IllegalCommand. -/
def Obligations.RdregReturnsTheRegister : Prop :=
  (∀ s : State,
      exec (.rdreg 0) s = .next { s with resp := s.resp ++ [⟨.ok, s.seq.setWidth 16⟩] }
      ∧ exec (.rdreg 1) s = .next { s with resp := s.resp ++ [⟨.ok, s.dataUniv⟩] }
      ∧ exec (.rdreg 2) s = .next { s with resp := s.resp ++ [⟨.ok, s.ledCount.setWidth 16⟩] }
      ∧ exec (.rdreg 3) s = .next { s with resp := s.resp ++ [⟨.illegalCommand, 0⟩] })
    ∧ (∀ (w : CmdWord) (sel : BitVec 2), decode w = .ok (.rdreg sel) ↔ sel ≠ 3 ∧ w.toNat = 0x80000000 + sel.toNat)
    ∧ ∃ e, decode 0x80000003 = .error e

/-- A byte written by WRBYTE is what RDBYTE of the same address answers, and RDBYTE of another address answers what it
would have answered before (42_buffer.md R64, R65). -/
def Obligations.RdbyteAfterWrbyte : Prop :=
  ∀ (s : State) (a b : PbufAddr) (v : Byte), s.pbuf.wf = true →
    ∃ t u, exec (.wrbyte a v) s = .next t ∧ exec (.rdbyte b) t = .next u
      ∧ u.resp = s.resp ++ [⟨.ok, 0⟩, ⟨.ok, (if b = a then v else s.readPbuf b).setWidth 16⟩]

/-! ### The packet -/

/-- R42, R43, R45, R46, R48: the constant fields, the flat little-endian universe, and the data bytes, copied
unchanged with nothing after the last. -/
def Obligations.PacketFieldsStandWhereListed : Prop :=
  ∀ (p : List Byte) (s : Byte) (u : Half) (pkt : Packet), encodeDmx p s u = some pkt →
    byteAt pkt 8 = 0x00 ∧ byteAt pkt 9 = 0x50 ∧ byteAt pkt 10 = 0x00 ∧ byteAt pkt 11 = 0x0E
      ∧ byteAt pkt 13 = 0x00
      ∧ (byteAt pkt 14).toNat = u.toNat % 256 ∧ (byteAt pkt 15).toNat = u.toNat / 256
      ∧ pkt.drop 18 = p

/-- The ID's eight bytes, the Sequence byte, the big-endian Length and the packet's length, as 30_encoding.md R40 lays
them out. The ID's codes are general knowledge by the spec's own note (GK2, log entry 10), and R49 is marked derived. -/
def Obligations.PacketIdSequenceAndLength : Prop :=
  ∀ (p : List Byte) (s : Byte) (u : Half) (pkt : Packet), encodeDmx p s u = some pkt →
    pkt.take 8 = [0x41, 0x72, 0x74, 0x2D, 0x4E, 0x65, 0x74, 0x00]
      ∧ byteAt pkt 12 = s
      ∧ (byteAt pkt 16).toNat = p.length / 256 ∧ (byteAt pkt 17).toNat = p.length % 256
      ∧ pkt.length = 18 + p.length

/-- The serialization function has a value exactly for 1 to 512 payload bytes (43_transmit.md, The serialization
function). -/
def Obligations.EncodeDmxDomain : Prop :=
  ∀ (p : List Byte) (s : Byte) (u : Half),
    (∃ pkt, encodeDmx p s u = some pkt) ↔ p.length ≠ 0 ∧ p.length ≤ 512

/-- Reading a built packet back recovers the sequence value, the universe and the payload (30_encoding.md R50, which the
spec marks derived). -/
def Obligations.PacketRoundTrip : Prop :=
  ∀ (p : List Byte) (s : Byte) (u : Half), 1 ≤ p.length → p.length ≤ 512 →
    ∃ pkt, encodeDmx p s u = some pkt ∧ parsePacket pkt = ⟨s, u, p.length, p⟩

/-- The packet of an accepted SENDFRAME, read back, is the frame: PBUF byte k is data byte k (20_memory.md R28, R31),
on the data universe, with the counter's value, 18 + 3 * LED_COUNT bytes long. -/
def Obligations.FramePacketCarriesTheBuffer : Prop :=
  ∀ s : State, s.LedLegal → s.txAnswer = true → ∃ t pkt, exec .sendframe s = .next t ∧ t.wire = s.wire ++ [pkt]
    ∧ pkt.length = 18 + 3 * s.ledCount.toNat
    ∧ (∀ k, k < 3 * s.ledCount.toNat → byteAt pkt (18 + k) = s.pbuf.read k)
    ∧ (parsePacket pkt).sequence = s.seq ∧ (parsePacket pkt).universe_ = s.dataUniv
    ∧ (parsePacket pkt).length = 3 * s.ledCount.toNat

/-- The 19 bytes of an accepted SENDDIM (43_transmit.md R70, its example's layout). -/
def Obligations.DimmerPacketBytes : Prop :=
  ∀ (s : State) (b : Byte), s.txAnswer = true → ∃ t, exec (.senddim b) s = .next t
    ∧ t.wire = s.wire ++ [[0x41, 0x72, 0x74, 0x2D, 0x4E, 0x65, 0x74, 0x00, 0x00, 0x50, 0x00, 0x0E, s.seq, 0x00, 0x0F, 0x00,
        0x00, 0x01, b]]

/-! ### Whole-machine rules -/

/-- R71: SEQ advances by one modulo 256 exactly once for each packet the transport accepts, from SENDFRAME or SENDDIM,
and no other command word changes it; the packet carries the value SEQ held before. -/
def Obligations.SeqAdvancesOncePerAcceptedPacket : Prop :=
  ∀ (s t : State) (w : CmdWord) (rest : List HostEvent), s.hostPort = .command w :: rest → step s = .next t →
    ((∃ i, decode w = .ok i ∧ IsSend i = true) ∧ s.txAnswer = true ∧
      ∃ pkt, t.wire = s.wire ++ [pkt] ∧ byteAt pkt 12 = s.seq ∧ t.seq.toNat = (s.seq.toNat + 1) % 256)
    ∨ (¬ ((∃ i, decode w = .ok i ∧ IsSend i = true) ∧ s.txAnswer = true) ∧ t.wire = s.wire ∧ t.seq = s.seq)

/-- A refused send leaves SEQ and WIRE, and the packet that is accepted next carries the sequence value the refused one
would have carried (43_transmit.md R72, here for the send that follows at once). -/
def Obligations.RefusedSendReusesItsSequenceValue : Prop :=
  ∀ (i j : Instr) (s t u : State), IsSend i = true → IsSend j = true →
    s.txAnswer = false → exec i s = .next t → t.txAnswer = true → exec j t = .next u →
    t.seq = s.seq ∧ t.wire = s.wire ∧ ∃ pkt, u.wire = s.wire ++ [pkt] ∧ byteAt pkt 12 = s.seq

/-- R76: every command word, legal or illegal, gives exactly one response; the codes have the numbers of R76's table and
are raised by the commands it names; an error's data is 0, and so is the data of an OK but for RDBYTE, RDREG and the
sends. -/
def Obligations.OneResponsePerCommand : Prop :=
  (RespCode.ok.bits = 0 ∧ RespCode.encodingError.bits = 1 ∧ RespCode.networkUnavailable.bits = 2
      ∧ RespCode.illegalCommand.bits = 3)
    ∧ ∀ (s t : State) (w : CmdWord) (rest : List HostEvent), s.hostPort = .command w :: rest → step s = .next t →
      ∃ r : Response, t.resp = s.resp ++ [r]
        ∧ (r.code = .encodingError → (∃ n, decode w = .ok (.setled n)) ∧ r.data = 0)
        ∧ (r.code = .networkUnavailable → (∃ i, decode w = .ok i ∧ IsSend i = true) ∧ r.data = 0)
        ∧ (r.code = .illegalCommand → (∃ e, decode w = .error e) ∧ r.data = 0)
        ∧ (r.code = .ok → r.data ≠ 0 → ∃ i, decode w = .ok i ∧
            (IsSend i = true ∨ (∃ a, i = .rdbyte a) ∨ ∃ sel, i = .rdreg sel))

/-- R77: a command that raises an error answers (code, 0) and has changed none of SEQ, DATA_UNIV, LED_COUNT, PBUF and
WIRE. -/
def Obligations.ErrorsChangeNothing : Prop :=
  ∀ (s t : State) (w : CmdWord) (rest : List HostEvent), s.hostPort = .command w :: rest → step s = .next t →
    ∀ r : Response, t.resp = s.resp ++ [r] → r.code ≠ .ok → r.data = 0 ∧ s.SameBlock t

/-- Only the commands that 10_state.md names write each piece of state: SETUNIV writes DATA_UNIV, SETLED LED_COUNT, WRBYTE
and CLEAR the buffer, the sends SEQ and WIRE, and no command takes from the port. -/
def Obligations.OnlyNamedCommandsWriteEachRegister : Prop :=
  ∀ (i : Instr) (s t : State), exec i s = .next t →
    (t.dataUniv ≠ s.dataUniv → ∃ u, i = .setuniv u)
      ∧ (t.ledCount ≠ s.ledCount → ∃ n, i = .setled n)
      ∧ (t.pbuf ≠ s.pbuf → (∃ a v, i = .wrbyte a v) ∨ i = .clear)
      ∧ (t.seq ≠ s.seq ∨ t.wire ≠ s.wire → IsSend i = true)
      ∧ t.hostPort = s.hostPort

/-- A packet on WIRE stays as it is and where it is, whatever the next command is (20_memory.md R31, R35). -/
def Obligations.WirePacketsAreNeverChanged : Prop :=
  ∀ (s t : State) (w : CmdWord) (rest : List HostEvent), s.hostPort = .command w :: rest → step s = .next t →
    ∀ (k : Nat) (pkt : Packet), s.wire[k]? = some pkt → t.wire[k]? = some pkt

/-- The histories are not read (10_state.md R24): with other histories a command does the same, and appends the same to
each. -/
def Obligations.HistoriesAreNotRead : Prop :=
  ∀ (i : Instr) (s t : State) (wire' : List Packet) (resp' : List Response), exec i s = .next t →
    ∃ sent said, t.wire = s.wire ++ sent ∧ t.resp = s.resp ++ said
      ∧ exec i { s with wire := wire', resp := resp' } = .next { t with wire := wire' ++ sent, resp := resp' ++ said }

/-- SENDDIM reads neither PBUF nor DATA_UNIV nor LED_COUNT, and writes none of them (43_transmit.md R70). -/
def Obligations.SenddimIgnoresTheFrame : Prop :=
  ∀ (b : Byte) (s t : State) (u : BitVec 16) (n : BitVec 8) (m : Memory), exec (.senddim b) s = .next t →
    exec (.senddim b) { s with dataUniv := u, ledCount := n, pbuf := m }
      = .next { t with dataUniv := u, ledCount := n, pbuf := m }

/-- Bytes of PBUF at 3*LED_COUNT and above do not matter to SENDFRAME (20_memory.md R32). -/
def Obligations.SendframeIgnoresBytesBeyondTheFrame : Prop :=
  ∀ (s t : State) (m : Memory), (∀ a, a < 3 * s.ledCount.toNat → m.read a = s.pbuf.read a) →
    exec .sendframe s = .next t → exec .sendframe { s with pbuf := m } = .next { t with pbuf := m }

/-- The sequence numbers on WIRE (43_transmit.md R73, which the spec marks derived): packet k carries k mod 256, and no
two of the first 256 packets share a value. -/
def Obligations.WireSequenceNumbersCountUp : Prop :=
  ∀ s : State, s.Inv →
    (∀ (k : Nat) (pkt : Packet), s.wire[k]? = some pkt → (byteAt pkt 12).toNat = k % 256)
      ∧ ∀ (j k : Nat) (p q : Packet), j < k → k < 256 → s.wire[j]? = some p → s.wire[k]? = some q → byteAt p 12 ≠ byteAt q 12

/-- After n accepted sends in a row, of either kind, SEQ has advanced by n modulo 256 and WIRE has n packets more; so
after 256 the counter is back where it was (43_transmit.md R73, marked derived). -/
def Obligations.SendsInARowWrapTheCounter : Prop :=
  ∀ (s : State) (sends : List Instr), s.Inv → (∀ i ∈ sends, IsSend i = true) →
    s.hostPort = sends.map (fun i => .command (encode i)) →
    (∀ k, k < sends.length → s.txScript[k]? = some true) →
    ∃ t : State, Host.Core.run Sys2Proof.core sends.length s = .next t
      ∧ t.seq.toNat = (s.seq.toNat + sends.length) % 256 ∧ t.wire.length = s.wire.length + sends.length
      ∧ (sends.length = 256 → t.seq = s.seq)

/-- The clear-and-off frame: an accepted SENDFRAME after CLEAR sends 3 * LED_COUNT bytes, all 0, on the data universe
(30_encoding.md R60, `OFF`). -/
def Obligations.ClearThenSendframeSendsZeroes : Prop :=
  ∀ s : State, s.LedLegal → s.txAnswer = true → ∃ t u pkt, exec .clear s = .next t ∧ exec .sendframe t = .next u
    ∧ u.wire = s.wire ++ [pkt]
    ∧ parsePacket pkt = ⟨s.seq, s.dataUniv, 3 * s.ledCount.toNat, List.replicate (3 * s.ledCount.toNat) 0⟩

/-! ### The assembler -/

/-- The three commands of WRPIX write red, green and blue of pixel i at 3*i, 3*i+1 and 3*i+2 and no other byte
(30_encoding.md R60; 20_memory.md R33). -/
def Obligations.WrpixWritesThreeBytes : Prop :=
  ∀ (i : Nat) (r g b : Byte) (s : State), i ≤ 169 → s.pbuf.wf = true →
    ∃ c₁ c₂ c₃ t₁ t₂ t₃, (Asm.Stmt.wrpix i r.toNat g.toNat b.toNat).expand = .ok [c₁, c₂, c₃]
      ∧ exec c₁ s = .next t₁ ∧ exec c₂ t₁ = .next t₂ ∧ exec c₃ t₂ = .next t₃
      ∧ t₃.pbuf.read (3 * i) = r ∧ t₃.pbuf.read (3 * i + 1) = g ∧ t₃.pbuf.read (3 * i + 2) = b
      ∧ ∀ a, a < 3 * i ∨ 3 * i + 2 < a → t₃.pbuf.read a = s.pbuf.read a

/-- An operand that fits its field gives the word with that operand, and an operand outside its field width is an assembly
error, never truncated (30_encoding.md R59). -/
def Obligations.AssemblerNeverTruncates : Prop :=
  (∀ n : Nat, if n < 65536 then ∃ w, (Asm.Stmt.setled n).words = .ok [w] ∧ w.toNat = 0x10000000 + n
      else (Asm.Stmt.setled n).words = .error .operandRange)
    ∧ (∀ u : Nat, if u < 65536 then ∃ w, (Asm.Stmt.setuniv u).words = .ok [w] ∧ w.toNat = 0x20000000 + u
      else (Asm.Stmt.setuniv u).words = .error .operandRange)
    ∧ (∀ a v : Nat, if a < 512 ∧ v < 256 then
        ∃ w, (Asm.Stmt.wrbyte a v).words = .ok [w] ∧ w.toNat = 0x30000000 + 0x10000 * a + v
      else (Asm.Stmt.wrbyte a v).words = .error .operandRange)
    ∧ (∀ a : Nat, if a < 512 then ∃ w, (Asm.Stmt.rdbyte a).words = .ok [w] ∧ w.toNat = 0x40000000 + 0x10000 * a
      else (Asm.Stmt.rdbyte a).words = .error .operandRange)
    ∧ (∀ b : Nat, if b < 256 then ∃ w, (Asm.Stmt.senddim b).words = .ok [w] ∧ w.toNat = 0x70000000 + b
      else (Asm.Stmt.senddim b).words = .error .operandRange)
    ∧ ∀ sel : Nat, if sel < 4 then ∃ w, (Asm.Stmt.rdreg sel).words = .ok [w] ∧ w.toNat = 0x80000000 + sel
      else (Asm.Stmt.rdreg sel).words = .error .operandRange
end

