-- ==== Sys2Proof/Laws/Bits.lean ====
section
/-! SUPPORT. Fields and patterns of a command word as arithmetic on its number, so that omega can reason about
them. -/

namespace Sys2Proof

/-- A field's number. -/
theorem extract_toNat {n : Nat} (w : BitVec n) (start len : Nat) :
    (w.extractLsb' start len).toNat = w.toNat / 2 ^ start % 2 ^ len := by
  rw [BitVec.extractLsb'_toNat, Nat.shiftRight_eq_div_pow]

/-- When a field holds a given value. -/
theorem extract_eq_iff {n : Nat} (w : BitVec n) (start len : Nat) (c : BitVec len) :
    w.extractLsb' start len = c ↔ w.toNat / 2 ^ start % 2 ^ len = c.toNat := by
  rw [← BitVec.toNat_inj, extract_toNat]

/-- The number of two fields side by side. -/
theorem append_toNat {m n : Nat} (x : BitVec m) (y : BitVec n) :
    (x ++ y).toNat = x.toNat * 2 ^ n + y.toNat := by
  rw [BitVec.toNat_append, ← Nat.shiftLeft_add_eq_or_of_lt y.isLt, Nat.shiftLeft_eq]

/-! ### The number of each command's word -/

@[simp] theorem encode_nop_toNat : (encode .nop).toNat = 0 := rfl

@[simp] theorem encode_setled_toNat (n : Half) : (encode (.setled n)).toNat = 268435456 + n.toNat := by
  simp only [encode, append_toNat, BitVec.toNat_ofNat]; omega

@[simp] theorem encode_setuniv_toNat (u : Half) : (encode (.setuniv u)).toNat = 536870912 + u.toNat := by
  simp only [encode, append_toNat, BitVec.toNat_ofNat]; omega

@[simp] theorem encode_wrbyte_toNat (a : PbufAddr) (v : Byte) :
    (encode (.wrbyte a v)).toNat = 805306368 + 65536 * a.toNat + v.toNat := by
  simp only [encode, append_toNat, BitVec.toNat_ofNat]; omega

@[simp] theorem encode_rdbyte_toNat (a : PbufAddr) : (encode (.rdbyte a)).toNat = 1073741824 + 65536 * a.toNat := by
  simp only [encode, append_toNat, BitVec.toNat_ofNat]; omega

@[simp] theorem encode_clear_toNat : (encode .clear).toNat = 1342177280 := rfl

@[simp] theorem encode_sendframe_toNat : (encode .sendframe).toNat = 1610612736 := rfl

@[simp] theorem encode_senddim_toNat (b : Byte) : (encode (.senddim b)).toNat = 1879048192 + b.toNat := by
  simp only [encode, append_toNat, BitVec.toNat_ofNat]; omega

@[simp] theorem encode_rdreg_toNat (sel : BitVec 2) : (encode (.rdreg sel)).toNat = 2147483648 + sel.toNat := by
  simp only [encode, append_toNat, BitVec.toNat_ofNat]; omega

end Sys2Proof
end

