-- ==== Sys2Proof/Laws/Decode.lean ====
section
/-! SUPPORT. The decoder, said once: what an accepted word must satisfy. -/

namespace Sys2Proof

/-- A word decodes to a command exactly when its opcode and fields spell it, its reserved bits are 0, and the
command is one of the map. -/
theorem decode_eq_ok {w : CmdWord} {i : Instr} :
    decode w = .ok i ↔ fieldsOf w = some i ∧ i.format.reservedClear w = true ∧ i.wellFormed = true := by
  unfold decode
  cases h : fieldsOf w with
  | none => simp
  | some j =>
    cases hr : j.format.reservedClear w <;> cases hw : j.wellFormed <;> simp [hr, hw] <;>
      (rintro rfl; simp_all)

/-- The opcode field fixes which command the fields spell. -/
theorem fieldsOf_opcode {w : CmdWord} {i : Instr} (h : fieldsOf w = some i) : opField w = i.opcode := by
  have hlt : (opField w).toNat < 16 := (opField w).isLt
  apply BitVec.eq_of_toNat_eq
  unfold fieldsOf at h
  split at h <;> cases h <;> simp_all [Instr.opcode]

end Sys2Proof
end

