-- ==== Sys2Proof/Laws/Memory.lean ====
section
/-! SUPPORT. The payload buffer: every operation keeps the canonical form, a read gives what was last written, and
two canonical buffers that read alike are equal. -/

namespace Sys2Proof.Machine.Memory

/-- The canonical form of a listed byte and the rest. -/
theorem wfFrom_cons {lo a : Nat} {v : Byte} {m : Memory} :
    wfFrom lo ((a, v) :: m) = true ↔ lo ≤ a ∧ a < 512 ∧ v ≠ 0 ∧ wfFrom (a + 1) m = true := by
  simp only [wfFrom, Bool.and_eq_true, decide_eq_true_eq, bne_iff_ne, and_assoc]
  exact Iff.rfl

/-- A canonical list stays one from any smaller bound. -/
theorem wfFrom_mono {lo lo' : Nat} (h : lo' ≤ lo) : ∀ {m : Memory}, wfFrom lo m = true → wfFrom lo' m = true
  | [], _ => rfl
  | (_, _) :: _, hm => by
    obtain ⟨h1, h2⟩ := wfFrom_cons.1 hm
    exact wfFrom_cons.2 ⟨h.trans h1, h2⟩

/-- Below the bound of a canonical list, nothing is listed. -/
theorem read_below {lo a : Nat} (h : a < lo) : ∀ {m : Memory}, wfFrom lo m = true → read m a = 0
  | [], _ => rfl
  | (b, _) :: _, hm => by
    obtain ⟨h1, -, -, h4⟩ := wfFrom_cons.1 hm
    simp only [read, if_neg (show a ≠ b by omega)]
    exact read_below (by omega) h4

/-- A write inside the buffer keeps the canonical form above its bound. -/
theorem wfFrom_write {lo a : Nat} (v : Byte) (hlo : lo ≤ a) (ha : a < 512) :
    ∀ {m : Memory}, wfFrom lo m = true → wfFrom lo (write m a v) = true
  | [], _ => by
    simp only [write]
    split
    · rfl
    · next hv => exact wfFrom_cons.2 ⟨hlo, ha, hv, rfl⟩
  | (b, _) :: _, hm => by
    obtain ⟨h1, h2, h3, h4⟩ := wfFrom_cons.1 hm
    simp only [write]
    split
    · next hab =>
      split
      · exact hm
      · next hv => exact wfFrom_cons.2 ⟨hlo, ha, hv, wfFrom_cons.2 ⟨hab, h2, h3, h4⟩⟩
    · split
      · next hab =>
        split
        · exact wfFrom_mono (by omega) h4
        · next hv => exact wfFrom_cons.2 ⟨hlo, ha, hv, hab ▸ h4⟩
      · exact wfFrom_cons.2 ⟨h1, h2, h3, wfFrom_write v (by omega) ha h4⟩

/-- A write at a valid address keeps the canonical form. -/
theorem wf_write {m : Memory} (h : m.wf = true) {a : Nat} (ha : a < 512) (v : Byte) : (m.write a v).wf = true :=
  wfFrom_write v (Nat.zero_le a) ha h

/-- The clear buffer is canonical. -/
theorem wf_clear : Memory.clear.wf = true := rfl

/-- The clear buffer reads 0 everywhere. -/
@[simp] theorem read_nil (a : Nat) : read [] a = 0 := rfl

theorem wfFrom_read_write {lo a : Nat} (v : Byte) (b : Nat) :
    ∀ {m : Memory}, wfFrom lo m = true → read (write m a v) b = if b = a then v else read m b
  | [], _ => by
    simp only [write, read]
    split <;> split <;> simp_all [read]
  | (c, _) :: _, hm => by
    obtain ⟨-, -, -, h4⟩ := wfFrom_cons.1 hm
    have gap : ∀ {k}, k < c + 1 → read _ k = 0 := fun hk => read_below hk h4
    rcases Nat.lt_trichotomy a c with hac | rfl | hac
    · by_cases hv : v = 0#8
      · by_cases hb : b = a
        · simp [write, read, hac, hv, hb, Nat.ne_of_lt hac, gap (show a < c + 1 by omega)]
        · simp [write, hac, hv, hb]
      · simp [write, read, hac, hv]
    · by_cases hv : v = 0#8
      · by_cases hb : b = a
        · simp [write, hv, hb, gap (Nat.lt_succ_self a)]
        · simp [write, read, hv, hb]
      · by_cases hb : b = a <;> simp [write, read, hv, hb]
    · have ih := wfFrom_read_write (a := a) v b h4
      by_cases hb : b = c
      · simp [write, read, hb, Nat.not_lt_of_gt hac, Nat.ne_of_gt hac, Nat.ne_of_lt hac]
      · simp [write, read, hb, ih, Nat.not_lt_of_gt hac, Nat.ne_of_gt hac]

/-- Reading after a write: the written byte at its address, the old byte elsewhere. -/
theorem read_write {m : Memory} (h : m.wf = true) (a b : Nat) (v : Byte) :
    (m.write a v).read b = if b = a then v else m.read b :=
  wfFrom_read_write (lo := 0) v b h

theorem wfFrom_ext : ∀ {m m' : Memory} {lo : Nat}, wfFrom lo m = true → wfFrom lo m' = true →
    (∀ a, lo ≤ a → a < 512 → read m a = read m' a) → m = m'
  | [], [], _, _, _, _ => rfl
  | [], (b, _) :: _, _, _, h', he => by
    obtain ⟨h1, h2, h3, -⟩ := wfFrom_cons.1 h'
    exact absurd (by simpa [read] using (he b h1 h2).symm) h3
  | (b, _) :: _, [], _, h, _, he => by
    obtain ⟨h1, h2, h3, -⟩ := wfFrom_cons.1 h
    exact absurd (by simpa [read] using he b h1 h2) h3
  | (b, x) :: m, (c, y) :: m', lo, h, h', he => by
    obtain ⟨h1, h2, h3, h4⟩ := wfFrom_cons.1 h
    obtain ⟨k1, k2, k3, k4⟩ := wfFrom_cons.1 h'
    rcases Nat.lt_trichotomy b c with hbc | rfl | hbc
    · have := he b h1 h2
      simp only [read, if_true, if_neg (Nat.ne_of_lt hbc)] at this
      exact absurd (this.trans (read_below (by omega) k4)) h3
    · have hxy := he b h1 h2
      simp only [read, if_true] at hxy
      rw [hxy, wfFrom_ext h4 k4 fun a hlo ha => by
        have := he a (by omega) ha
        simpa only [read, if_neg (show a ≠ b by omega)] using this]
    · have := he c k1 k2
      simp only [read, if_true, if_neg (Nat.ne_of_lt hbc)] at this
      exact absurd (this.symm.trans (read_below (by omega) h4)) k3

/-- Two canonical buffers that read alike at every address are equal. -/
theorem wf_ext {m m' : Memory} (h : m.wf = true) (h' : m'.wf = true)
    (he : ∀ a, a < 512 → m.read a = m'.read a) : m = m' :=
  wfFrom_ext h h' fun a _ ha => he a ha

end Sys2Proof.Machine.Memory
end

