-- ==== Sys2Proof/Laws/Packet.lean ====
section
/-! SUPPORT. The packet header and the serialization function, each unfolded once. -/

namespace Sys2Proof.Machine

/-- The header's 18 bytes, written out. -/
theorem packetHeader_eq (s : Byte) (u : Half) (len : Nat) :
    packetHeader s u len =
      [0x41, 0x72, 0x74, 0x2D, 0x4E, 0x65, 0x74, 0x00, 0x00, 0x50, 0x00, 0x0E, s, 0x00,
        u.extractLsb' 0 8, u.extractLsb' 8 8,
        (BitVec.ofNat 16 len).extractLsb' 8 8, (BitVec.ofNat 16 len).extractLsb' 0 8] := rfl

/-- The header has 18 bytes. -/
@[simp] theorem packetHeader_length (s : Byte) (u : Half) (len : Nat) : (packetHeader s u len).length = 18 := rfl

/-- When the serialization function has a value, and which. -/
theorem encodeDmx_eq_some {payload : List Byte} {s : Byte} {u : Half} {pkt : Packet} :
    encodeDmx payload s u = some pkt ↔
      (1 ≤ payload.length ∧ payload.length ≤ 512) ∧ pkt = packetHeader s u payload.length ++ payload := by
  unfold encodeDmx Config.maxDmxLen
  split <;> simp_all [eq_comm]

/-- Inside the domain, the value. -/
theorem encodeDmx_of_length {payload : List Byte} (s : Byte) (u : Half) (h1 : 1 ≤ payload.length)
    (h2 : payload.length ≤ 512) :
    encodeDmx payload s u = some (packetHeader s u payload.length ++ payload) :=
  encodeDmx_eq_some.2 ⟨⟨h1, h2⟩, rfl⟩

end Sys2Proof.Machine
end

