-- ==== Sys2Proof/Laws/State.lean ====
section
/-! SUPPORT. One lemma for each field of State and each update of Machine/Ops.lean, so that no proof unfolds a
record update. -/

namespace Sys2Proof.Machine.State

variable (s : State)

@[simp] theorem setSeq_seq (v : Byte) : (s.setSeq v).seq = v := rfl
@[simp] theorem setSeq_dataUniv (v : Byte) : (s.setSeq v).dataUniv = s.dataUniv := rfl
@[simp] theorem setSeq_ledCount (v : Byte) : (s.setSeq v).ledCount = s.ledCount := rfl
@[simp] theorem setSeq_pbuf (v : Byte) : (s.setSeq v).pbuf = s.pbuf := rfl
@[simp] theorem setSeq_wire (v : Byte) : (s.setSeq v).wire = s.wire := rfl
@[simp] theorem setSeq_resp (v : Byte) : (s.setSeq v).resp = s.resp := rfl
@[simp] theorem setSeq_hostPort (v : Byte) : (s.setSeq v).hostPort = s.hostPort := rfl
@[simp] theorem setSeq_txScript (v : Byte) : (s.setSeq v).txScript = s.txScript := rfl
@[simp] theorem setSeq_offers (v : Byte) : (s.setSeq v).offers = s.offers := rfl

@[simp] theorem setDataUniv_seq (v : Half) : (s.setDataUniv v).seq = s.seq := rfl
@[simp] theorem setDataUniv_dataUniv (v : Half) : (s.setDataUniv v).dataUniv = v := rfl
@[simp] theorem setDataUniv_ledCount (v : Half) : (s.setDataUniv v).ledCount = s.ledCount := rfl
@[simp] theorem setDataUniv_pbuf (v : Half) : (s.setDataUniv v).pbuf = s.pbuf := rfl
@[simp] theorem setDataUniv_wire (v : Half) : (s.setDataUniv v).wire = s.wire := rfl
@[simp] theorem setDataUniv_resp (v : Half) : (s.setDataUniv v).resp = s.resp := rfl
@[simp] theorem setDataUniv_hostPort (v : Half) : (s.setDataUniv v).hostPort = s.hostPort := rfl
@[simp] theorem setDataUniv_txScript (v : Half) : (s.setDataUniv v).txScript = s.txScript := rfl
@[simp] theorem setDataUniv_offers (v : Half) : (s.setDataUniv v).offers = s.offers := rfl

@[simp] theorem setLedCount_seq (v : Byte) : (s.setLedCount v).seq = s.seq := rfl
@[simp] theorem setLedCount_dataUniv (v : Byte) : (s.setLedCount v).dataUniv = s.dataUniv := rfl
@[simp] theorem setLedCount_ledCount (v : Byte) : (s.setLedCount v).ledCount = v := rfl
@[simp] theorem setLedCount_pbuf (v : Byte) : (s.setLedCount v).pbuf = s.pbuf := rfl
@[simp] theorem setLedCount_wire (v : Byte) : (s.setLedCount v).wire = s.wire := rfl
@[simp] theorem setLedCount_resp (v : Byte) : (s.setLedCount v).resp = s.resp := rfl
@[simp] theorem setLedCount_hostPort (v : Byte) : (s.setLedCount v).hostPort = s.hostPort := rfl
@[simp] theorem setLedCount_txScript (v : Byte) : (s.setLedCount v).txScript = s.txScript := rfl
@[simp] theorem setLedCount_offers (v : Byte) : (s.setLedCount v).offers = s.offers := rfl

@[simp] theorem setPbuf_seq (m : Memory) : (s.setPbuf m).seq = s.seq := rfl
@[simp] theorem setPbuf_dataUniv (m : Memory) : (s.setPbuf m).dataUniv = s.dataUniv := rfl
@[simp] theorem setPbuf_ledCount (m : Memory) : (s.setPbuf m).ledCount = s.ledCount := rfl
@[simp] theorem setPbuf_pbuf (m : Memory) : (s.setPbuf m).pbuf = m := rfl
@[simp] theorem setPbuf_wire (m : Memory) : (s.setPbuf m).wire = s.wire := rfl
@[simp] theorem setPbuf_resp (m : Memory) : (s.setPbuf m).resp = s.resp := rfl
@[simp] theorem setPbuf_hostPort (m : Memory) : (s.setPbuf m).hostPort = s.hostPort := rfl
@[simp] theorem setPbuf_txScript (m : Memory) : (s.setPbuf m).txScript = s.txScript := rfl
@[simp] theorem setPbuf_offers (m : Memory) : (s.setPbuf m).offers = s.offers := rfl

@[simp] theorem appendWire_seq (p : Packet) : (s.appendWire p).seq = s.seq := rfl
@[simp] theorem appendWire_dataUniv (p : Packet) : (s.appendWire p).dataUniv = s.dataUniv := rfl
@[simp] theorem appendWire_ledCount (p : Packet) : (s.appendWire p).ledCount = s.ledCount := rfl
@[simp] theorem appendWire_pbuf (p : Packet) : (s.appendWire p).pbuf = s.pbuf := rfl
@[simp] theorem appendWire_wire (p : Packet) : (s.appendWire p).wire = s.wire ++ [p] := rfl
@[simp] theorem appendWire_resp (p : Packet) : (s.appendWire p).resp = s.resp := rfl
@[simp] theorem appendWire_hostPort (p : Packet) : (s.appendWire p).hostPort = s.hostPort := rfl
@[simp] theorem appendWire_txScript (p : Packet) : (s.appendWire p).txScript = s.txScript := rfl
@[simp] theorem appendWire_offers (p : Packet) : (s.appendWire p).offers = s.offers := rfl

@[simp] theorem respond_seq (c : RespCode) (d : Half) : (s.respond c d).seq = s.seq := rfl
@[simp] theorem respond_dataUniv (c : RespCode) (d : Half) : (s.respond c d).dataUniv = s.dataUniv := rfl
@[simp] theorem respond_ledCount (c : RespCode) (d : Half) : (s.respond c d).ledCount = s.ledCount := rfl
@[simp] theorem respond_pbuf (c : RespCode) (d : Half) : (s.respond c d).pbuf = s.pbuf := rfl
@[simp] theorem respond_wire (c : RespCode) (d : Half) : (s.respond c d).wire = s.wire := rfl
@[simp] theorem respond_resp (c : RespCode) (d : Half) : (s.respond c d).resp = s.resp ++ [⟨c, d⟩] := rfl
@[simp] theorem respond_hostPort (c : RespCode) (d : Half) : (s.respond c d).hostPort = s.hostPort := rfl
@[simp] theorem respond_txScript (c : RespCode) (d : Half) : (s.respond c d).txScript = s.txScript := rfl
@[simp] theorem respond_offers (c : RespCode) (d : Half) : (s.respond c d).offers = s.offers := rfl

@[simp] theorem useAnswer_seq : s.useAnswer.seq = s.seq := rfl
@[simp] theorem useAnswer_dataUniv : s.useAnswer.dataUniv = s.dataUniv := rfl
@[simp] theorem useAnswer_ledCount : s.useAnswer.ledCount = s.ledCount := rfl
@[simp] theorem useAnswer_pbuf : s.useAnswer.pbuf = s.pbuf := rfl
@[simp] theorem useAnswer_wire : s.useAnswer.wire = s.wire := rfl
@[simp] theorem useAnswer_resp : s.useAnswer.resp = s.resp := rfl
@[simp] theorem useAnswer_hostPort : s.useAnswer.hostPort = s.hostPort := rfl
@[simp] theorem useAnswer_txScript : s.useAnswer.txScript = s.txScript.tail := rfl
@[simp] theorem useAnswer_offers : s.useAnswer.offers = s.offers + 1 := rfl

@[simp] theorem takeReset_seq : s.takeReset.seq = 0 := rfl
@[simp] theorem takeReset_dataUniv : s.takeReset.dataUniv = 0 := rfl
@[simp] theorem takeReset_ledCount : s.takeReset.ledCount = 30 := rfl
@[simp] theorem takeReset_pbuf : s.takeReset.pbuf = [] := rfl
@[simp] theorem takeReset_wire : s.takeReset.wire = [] := rfl
@[simp] theorem takeReset_resp : s.takeReset.resp = [] := rfl
@[simp] theorem takeReset_hostPort : s.takeReset.hostPort = s.hostPort := rfl
@[simp] theorem takeReset_txScript : s.takeReset.txScript = s.txScript := rfl
@[simp] theorem takeReset_offers : s.takeReset.offers = s.offers := rfl

@[simp] theorem issue_seq (w : CmdWord) : (s.issue w).seq = s.seq := rfl
@[simp] theorem issue_dataUniv (w : CmdWord) : (s.issue w).dataUniv = s.dataUniv := rfl
@[simp] theorem issue_ledCount (w : CmdWord) : (s.issue w).ledCount = s.ledCount := rfl
@[simp] theorem issue_pbuf (w : CmdWord) : (s.issue w).pbuf = s.pbuf := rfl
@[simp] theorem issue_wire (w : CmdWord) : (s.issue w).wire = s.wire := rfl
@[simp] theorem issue_resp (w : CmdWord) : (s.issue w).resp = s.resp := rfl
@[simp] theorem issue_hostPort (w : CmdWord) : (s.issue w).hostPort = .command w :: s.hostPort := rfl
@[simp] theorem issue_txScript (w : CmdWord) : (s.issue w).txScript = s.txScript := rfl
@[simp] theorem issue_offers (w : CmdWord) : (s.issue w).offers = s.offers := rfl

/-- Raising an error is one response without data. -/
@[simp] theorem raise_eq (e : RespCode) : s.raise e = s.respond e 0 := rfl

/-- Writing a byte replaces the buffer by the written one. -/
@[simp] theorem writePbuf_eq (a : PbufAddr) (v : Byte) : s.writePbuf a v = s.setPbuf (s.pbuf.write a.toNat v) := rfl

/-- Clearing the buffer replaces it by the clear one. -/
@[simp] theorem clearPbuf_eq : s.clearPbuf = s.setPbuf [] := rfl

@[simp] theorem idle_eq : s.idle = s := rfl

@[simp] theorem illegal_eq : s.illegal = s.respond .illegalCommand 0 := rfl

end Sys2Proof.Machine.State
end

