-- ==== Sys2Proof/Laws/Ops.lean ====
section
/-! SUPPORT. What each shared operation can do, said once: the sequence counter's advance, the offer of a packet,
the send step, the register read, the frame. -/

namespace Sys2Proof.Machine.State

variable (s : State)

/-- Advancing the counter is addition on eight bits. -/
theorem nextSeq_eq : s.nextSeq = s.seq + 1 := by
  apply BitVec.eq_of_toNat_eq
  simp [nextSeq, Config.seqMod, BitVec.toNat_add]

/-- The number of the counter after its advance. -/
theorem nextSeq_toNat : s.nextSeq.toNat = (s.seq.toNat + 1) % 256 := by
  simp [nextSeq, Config.seqMod]

/-- An accepted offer. -/
theorem offerPacket_accept (h : s.txAnswer = true) (pkt : Packet) :
    s.offerPacket pkt = { s with
      seq := s.nextSeq, wire := s.wire ++ [pkt], resp := s.resp ++ [⟨.ok, s.seq.setWidth 16⟩],
      txScript := s.txScript.tail, offers := s.offers + 1 } := by
  simp only [offerPacket, h, if_true]; rfl

/-- A refused offer. -/
theorem offerPacket_refuse (h : s.txAnswer = false) (pkt : Packet) :
    s.offerPacket pkt = { s with
      resp := s.resp ++ [⟨.networkUnavailable, 0⟩], txScript := s.txScript.tail, offers := s.offers + 1 } := by
  simp only [offerPacket, h]; rfl

/-- A send step that goes on has built its packet and offered it. -/
theorem send_next {s t : State} {payload : List Byte} {u : Half} (h : s.send payload u = .next t) :
    ∃ pkt, encodeDmx payload s.seq u = some pkt ∧ t = s.offerPacket pkt := by
  unfold send at h
  split at h
  · next pkt hp => exact ⟨pkt, hp, by cases h; rfl⟩
  · cases h

/-- A send step whose payload is in the serialization's domain goes on. -/
theorem send_of_length {payload : List Byte} (u : Half) (h1 : 1 ≤ payload.length) (h2 : payload.length ≤ 512) :
    s.send payload u = .next (s.offerPacket (packetHeader s.seq u payload.length ++ payload)) := by
  simp only [send, encodeDmx_of_length s.seq u h1 h2]

/-- The frame has three bytes for each pixel. -/
@[simp] theorem frame_length : s.frame.length = 3 * s.ledCount.toNat := by
  simp [frame, frameLen, Config.bytesPerPixel]

/-- Byte `k` of the frame is `PBUF[k]`. -/
theorem frame_getElem {k : Nat} (h : k < s.frame.length) : s.frame[k] = s.pbuf.read k := by
  simp [frame]

/-- The register read has no value for `sel = 3` alone. -/
theorem readReg_isSome (sel : BitVec 2) : (s.readReg sel).isSome = (sel != 3) := by
  have h : sel = 0 ∨ sel = 1 ∨ sel = 2 ∨ sel = 3 := by revert sel; decide
  rcases h with rfl | rfl | rfl | rfl <;> rfl

end Sys2Proof.Machine.State
end

