-- ==== Sys2Proof/Laws/PerInstr.lean ====
section
/-! SUPPORT. A statement made for every command of the opcode map, one lemma a constructor: the encoder puts the
command's opcode in `w[31:28]` (spec/30_encoding.md R51) and leaves every reserved bit of its format 0 (R52). -/

namespace Sys2Proof.Laws.EncodeOpcode

/-- The word of the command carries its opcode and no reserved bit. -/
def Statement (i : Instr) : Prop := opField (encode i) = i.opcode ∧ i.format.reservedClear (encode i) = true

theorem nop : Statement .nop := ⟨rfl, rfl⟩

theorem setled (n : Half) : Statement (.setled n) := by
  have := n.isLt
  simp [Statement, opField, Format.reservedClear, Instr.format, Instr.opcode, extract_eq_iff]; omega

theorem setuniv (u : Half) : Statement (.setuniv u) := by
  have := u.isLt
  simp [Statement, opField, Format.reservedClear, Instr.format, Instr.opcode, extract_eq_iff]; omega

theorem wrbyte (a : PbufAddr) (v : Byte) : Statement (.wrbyte a v) := by
  have := a.isLt
  have := v.isLt
  simp [Statement, opField, Format.reservedClear, Instr.format, Instr.opcode, extract_eq_iff]; omega

theorem rdbyte (a : PbufAddr) : Statement (.rdbyte a) := by
  have := a.isLt
  simp [Statement, opField, Format.reservedClear, Instr.format, Instr.opcode, extract_eq_iff]; omega

theorem clear : Statement .clear := ⟨rfl, rfl⟩

theorem sendframe : Statement .sendframe := ⟨rfl, rfl⟩

theorem senddim (b : Byte) : Statement (.senddim b) := by
  have := b.isLt
  simp [Statement, opField, Format.reservedClear, Instr.format, Instr.opcode, extract_eq_iff]; omega

theorem rdreg (sel : BitVec 2) : Statement (.rdreg sel) := by
  have := sel.isLt
  simp [Statement, opField, Format.reservedClear, Instr.format, Instr.opcode, extract_eq_iff]; omega

end Sys2Proof.Laws.EncodeOpcode
end

