-- ==== Sys2Proof/Laws/Step.lean ====
section
/-! SUPPORT. What one command and one step can do, said once; every invariant is derived from these. -/

namespace Sys2Proof.Machine

/-! ### Each command's meaning -/

@[simp] theorem exec_nop (s : State) : exec .nop s = .next (s.respond .ok 0) := rfl

@[simp] theorem exec_setled (n : Half) (s : State) :
    exec (.setled n) s =
      .next (if ledCountLegal n then (s.setLedCount (n.setWidth 8)).respond .ok 0 else s.respond .encodingError 0) := rfl

@[simp] theorem exec_setuniv (u : Half) (s : State) :
    exec (.setuniv u) s = .next ((s.setDataUniv u).respond .ok 0) := rfl

@[simp] theorem exec_wrbyte (a : PbufAddr) (v : Byte) (s : State) :
    exec (.wrbyte a v) s = .next ((s.setPbuf (s.pbuf.write a.toNat v)).respond .ok 0) := rfl

@[simp] theorem exec_rdbyte (a : PbufAddr) (s : State) :
    exec (.rdbyte a) s = .next (s.respond .ok ((s.pbuf.read a.toNat).setWidth 16)) := rfl

@[simp] theorem exec_clear (s : State) : exec .clear s = .next ((s.setPbuf []).respond .ok 0) := rfl

@[simp] theorem exec_sendframe (s : State) : exec .sendframe s = s.send s.frame s.dataUniv := rfl

@[simp] theorem exec_senddim (b : Byte) (s : State) : exec (.senddim b) s = s.send [b] 15 := rfl

@[simp] theorem exec_rdreg (sel : BitVec 2) (s : State) :
    exec (.rdreg sel) s = .next (match s.readReg sel with
      | some v => s.respond .ok v
      | none => s.respond .illegalCommand 0) := rfl

/-- A legal count is one of 1..170. -/
theorem ledCountLegal_iff (n : Half) : ledCountLegal n = true ↔ 1 ≤ n.toNat ∧ n.toNat ≤ 170 := by
  simp only [ledCountLegal, Bool.and_eq_true, decide_eq_true_eq]
  exact Iff.rfl

/-- A legal count fits LED_COUNT's eight bits. -/
theorem ledCountLegal_toNat {n : Half} (h : ledCountLegal n = true) : (n.setWidth 8).toNat = n.toNat := by
  have := (ledCountLegal_iff n).1 h
  simp only [BitVec.toNat_setWidth]
  omega

/-- What one command can do when it goes on. -/
inductive Effect (s : State) : State → Prop where
  /-- One response, and nothing else: NOP, RDBYTE, RDREG, and a rejected SETLED. -/
  | responds (c : RespCode) (d : Half) (h : c ≠ .ok → d = 0) : Effect s (s.respond c d)
  /-- SETLED with a legal count. -/
  | ledCount (v : Byte) (h : 1 ≤ v.toNat ∧ v.toNat ≤ 170) : Effect s ((s.setLedCount v).respond .ok 0)
  /-- SETUNIV. -/
  | dataUniv (u : Half) : Effect s ((s.setDataUniv u).respond .ok 0)
  /-- WRBYTE. -/
  | write (a : PbufAddr) (v : Byte) : Effect s ((s.setPbuf (s.pbuf.write a.toNat v)).respond .ok 0)
  /-- CLEAR. -/
  | clear : Effect s ((s.setPbuf []).respond .ok 0)
  /-- SENDFRAME. -/
  | frame (pkt : Packet) (h : encodeDmx s.frame s.seq s.dataUniv = some pkt) : Effect s (s.offerPacket pkt)
  /-- SENDDIM. -/
  | dimmer (b : Byte) (pkt : Packet) (h : encodeDmx [b] s.seq 15 = some pkt) : Effect s (s.offerPacket pkt)

/-- Every command that goes on has one of these effects. -/
theorem exec_effect {i : Instr} {s t : State} (h : exec i s = .next t) : Effect s t := by
  cases i with
  | nop => cases h; exact .responds _ _ fun h => absurd rfl h
  | setled n =>
    simp only [exec_setled, Host.Outcome.next.injEq] at h
    split at h
    · next hn =>
      subst h
      exact .ledCount _ (by rw [ledCountLegal_toNat hn]; exact (ledCountLegal_iff n).1 hn)
    · subst h; exact .responds _ _ fun _ => rfl
  | setuniv u => cases h; exact .dataUniv u
  | wrbyte a v => cases h; exact .write a v
  | rdbyte a => cases h; exact .responds _ _ fun h => absurd rfl h
  | clear => cases h; exact .clear
  | sendframe =>
    obtain ⟨pkt, hp, rfl⟩ := State.send_next (exec_sendframe s ▸ h)
    exact .frame pkt hp
  | senddim b =>
    obtain ⟨pkt, hp, rfl⟩ := State.send_next (exec_senddim b s ▸ h)
    exact .dimmer b pkt hp
  | rdreg sel =>
    simp only [exec_rdreg, Host.Outcome.next.injEq] at h
    split at h
    · subst h; exact .responds _ _ fun h => absurd rfl h
    · subst h; exact .responds _ _ fun _ => rfl

/-! ### The step -/

/-- With nothing issued the machine stays. -/
theorem step_idle {s : State} (h : s.hostPort = []) : step s = .next s := by
  simp [step, State.nextEvent, h]

/-- A reset is taken. -/
theorem step_reset {s : State} {rest : List HostEvent} (h : s.hostPort = .reset :: rest) :
    step s = .next { s with hostPort := rest }.takeReset := by
  simp [step, State.nextEvent, h]

/-- A command word is run. -/
theorem step_command {s : State} {w : CmdWord} {rest : List HostEvent} (h : s.hostPort = .command w :: rest) :
    step s = runWord w { s with hostPort := rest } := by
  simp [step, State.nextEvent, h]

/-- What one step can do when it goes on: nothing, a reset, one response to an illegal word, or a command's
effect. -/
theorem step_cases {s t : State} (h : step s = .next t) :
    (s.hostPort = [] ∧ t = s)
      ∨ (∃ rest, s.hostPort = .reset :: rest ∧ t = { s with hostPort := rest }.takeReset)
      ∨ (∃ w rest r, s.hostPort = .command w :: rest ∧ decode w = .error r ∧
          t = { s with hostPort := rest }.respond .illegalCommand 0)
      ∨ ∃ w rest i, s.hostPort = .command w :: rest ∧ decode w = .ok i ∧
          exec i { s with hostPort := rest } = .next t := by
  match hp : s.hostPort with
  | [] => rw [step_idle hp] at h; cases h; exact .inl ⟨rfl, rfl⟩
  | .reset :: rest => rw [step_reset hp] at h; cases h; exact .inr (.inl ⟨rest, rfl, rfl⟩)
  | .command w :: rest =>
    rw [step_command hp, runWord] at h
    cases hd : decode w with
    | error r =>
      rw [hd] at h; cases h
      exact .inr (.inr (.inl ⟨w, rest, r, rfl, hd, rfl⟩))
    | ok i =>
      rw [hd] at h
      exact .inr (.inr (.inr ⟨w, rest, i, rfl, hd, h⟩))

end Sys2Proof.Machine
end

