-- ==== Sys2Proof/Machine/Session.lean ====
section
/-! DEFINITION. The host's side of a session, as far as it speaks of the command list: the run of R100, the setup
order of R96, the error policy of R85 and the duties of R98 (spec/70_reset_and_hazards.md, spec/60_exceptions.md). It
binds the host, and the block checks none of it. Log entry 8. -/

namespace Sys2Proof.Session

open Sys2Proof.Machine

/-- A run: reset, then a finite list of command words, in order (70_reset_and_hazards.md R100). The transport's
answers are free. -/
def start (words : List CmdWord) : State := { State.reset with hostPort := words.map .command }

/-- The errors of the host's own layers, which the block never raises (60_exceptions.md R81). -/
inductive HostError where
  /-- A pixel index outside `[0, ledCount)`. -/
  | invalidPixelIndex
  deriving DecidableEq, Repr

/-- The host's `setPixel`: the commands of one pixel, or `InvalidPixelIndex` before anything is written
(20_memory.md R33; 60_exceptions.md R81; R98 duty 3). -/
def setPixel (ledCount i : Nat) (r g b : Byte) : Except HostError (List Instr) :=
  if i < ledCount then .ok (Asm.pixelWrites i r g b) else .error .invalidPixelIndex

/-- What the host issues next when a command of an effect answers with this code (60_exceptions.md R85): the
clear-and-off frame after NetworkUnavailable, nothing after EncodingError at setup. For IllegalCommand the spec gives
no policy. -/
def onError : RespCode → Option (List Instr)
  | .ok => none
  | .encodingError => some []
  | .networkUnavailable => some Asm.offCommands
  | .illegalCommand => none

/-- What the duties of R98 ask of one command besides whether it sends: does it set the LED count, and which byte of
the buffer does it write? -/
structure Kind where
  setsLedCount : Bool
  writes : Option PbufAddr
  deriving DecidableEq, Repr

/-- The kind of a command. -/
def kindOf : Instr → Kind
  | .nop => ⟨false, none⟩
  | .setled _ => ⟨true, none⟩
  | .setuniv _ => ⟨false, none⟩
  | .wrbyte a _ => ⟨false, some a⟩
  | .rdbyte _ => ⟨false, none⟩
  | .clear => ⟨false, none⟩
  | .sendframe => ⟨false, none⟩
  | .senddim _ => ⟨false, none⟩
  | .rdreg _ => ⟨false, none⟩

/-- Duty 2 of R98: no SETLED after the first send of a session. `sent` says whether one has been issued. -/
def keepsLedCount (sent : Bool) : List Instr → Bool
  | [] => true
  | i :: is => !(sent && (kindOf i).setsLedCount) && keepsLedCount (sent || IsSend i) is

/-- Duty 3 of R98, byte by byte: every write is to a byte of the frame of `ledCount` pixels. -/
def writesInsideFrame (ledCount : Nat) (is : List Instr) : Bool :=
  is.all fun i => match (kindOf i).writes with
    | some a => decide (a.toNat < 3 * ledCount)
    | none => true

/-- Duty 6 of R98 and the boot order of R96: setup, then the effects' commands, then the clear-and-off frame. -/
def session (n u : Half) (effects : List Instr) : List Instr :=
  Asm.setupCommands n u ++ effects ++ Asm.offCommands

end Sys2Proof.Session
end

