-- ==== Sys2Proof/Tests/Slice0.lean ====
section
/-! SUPPORT. The model's own tests. Expected results are the test vectors of spec/95_test_vectors.md, named by their
ids, and the printed words of spec/30_encoding.md. The second half gives, for every statement with hypotheses, a
state and operands that meet them. -/

namespace Sys2Proof.Tests

open Sys2Proof.Machine

/-- The next state, where there is one. -/
def after : Host.Outcome State Fault Refusal → Option State
  | .next t => some t
  | .fault _ => none
  | .refused _ => none

/-- The reset state with the transport's next answer given. -/
def answering (b : Bool) : State := { State.reset with txScript := [b] }

/-- The reset state with one command word on the port. -/
def issuing (w : CmdWord) : State := { State.reset with hostPort := [.command w] }

/-! ### Well-formedness -/

theorem test_rdreg_sel_three_is_ill_formed : (Instr.rdreg 3).wellFormed = false := by decide

theorem test_rdreg_sel_two_is_well_formed : (Instr.rdreg 2).wellFormed = true := by decide

/-! ### Decoding: words written out from the patterns of R52 (`oooo`, then the fields) -/

theorem test_decode_nop : decode 0b00000000000000000000000000000000 = .ok .nop := by decide
theorem test_decode_setled : decode 0b00010000000000000000000010101010 = .ok (.setled 170) := by decide
theorem test_decode_setled_all_bits : decode 0x1000FFFF = .ok (.setled 65535) := by decide
theorem test_decode_setuniv : decode 0b00100000000000000001001000110100 = .ok (.setuniv 0x1234) := by decide
theorem test_decode_wrbyte : decode 0b00110001111111110000000010101011 = .ok (.wrbyte 511 0xAB) := by decide
theorem test_decode_rdbyte : decode 0b01000000000001010000000000000000 = .ok (.rdbyte 5) := by decide
theorem test_decode_clear : decode 0b01010000000000000000000000000000 = .ok .clear := by decide
theorem test_decode_sendframe : decode 0b01100000000000000000000000000000 = .ok .sendframe := by decide
theorem test_decode_senddim : decode 0b01110000000000000000000010000000 = .ok (.senddim 128) := by decide
theorem test_decode_rdreg : decode 0b10000000000000000000000000000010 = .ok (.rdreg 2) := by decide

/-- The illegal words of section 2.6. -/
theorem test_decode_reserved_opcodes :
    decode 0x90000000 = .error .reservedOpcode ∧ decode 0xF0000000 = .error .reservedOpcode := by decide
theorem test_decode_reserved_bits :
    decode 0x00000001 = .error .reservedBit ∧ decode 0x10010000 = .error .reservedBit
      ∧ decode 0x1FFFFFFF = .error .reservedBit ∧ decode 0x32000000 = .error .reservedBit
      ∧ decode 0x30000100 = .error .reservedBit ∧ decode 0x40000001 = .error .reservedBit
      ∧ decode 0x50000001 = .error .reservedBit ∧ decode 0x60000001 = .error .reservedBit
      ∧ decode 0x70000100 = .error .reservedBit ∧ decode 0x80000004 = .error .reservedBit := by decide
theorem test_decode_sel_three : decode 0x80000003 = .error .selThree := by decide

theorem test_encode_printed_words :
    encode (.wrbyte 0x1FF 0xAB) = 0x31FF00AB ∧ encode (.rdbyte 5) = 0x40050000 ∧ encode (.senddim 128) = 0x70000080 := by
  decide

theorem test_decodeTableWord :
    decodeTableWord 32 0x31FF00FF = some (.wrbyte 511 255) ∧ decodeTableWord 32 0x80000003 = none := by decide

/-! ### The serialization function (section 2.1) -/

/-- V2: the universe is little-endian, the sequence value 255. -/
theorem test_encodeDmx_V2 : encodeDmx [0x01, 0x02] 255 0x1234 = some
    [0x41, 0x72, 0x74, 0x2D, 0x4E, 0x65, 0x74, 0x00, 0x00, 0x50, 0x00, 0x0E, 0xFF, 0x00, 0x34, 0x12, 0x00, 0x02, 0x01,
      0x02] := by decide

/-- V3: bit 15 of the universe is sent flat. -/
theorem test_encodeDmx_V3 : encodeDmx [0x55] 0 0x8000 = some
    [0x41, 0x72, 0x74, 0x2D, 0x4E, 0x65, 0x74, 0x00, 0x00, 0x50, 0x00, 0x0E, 0x00, 0x00, 0x00, 0x80, 0x00, 0x01, 0x55] := by
  decide

/-- V4: the Length is big-endian, 510 = 0x01FE. -/
theorem test_header_V4 : packetHeader 3 0 510 =
    [0x41, 0x72, 0x74, 0x2D, 0x4E, 0x65, 0x74, 0x00, 0x00, 0x50, 0x00, 0x0E, 0x03, 0x00, 0x00, 0x00, 0x01, 0xFE] := by decide

/-- V7: no value for an empty payload. -/
theorem test_encodeDmx_V7 : encodeDmx [] 0 0 = none := by decide

/-- V9, read back (S3). -/
theorem test_parse_V9 : (encodeDmx [0xAA, 0xBB, 0xCC] 0 0).map parsePacket = some ⟨0, 0, 3, [0xAA, 0xBB, 0xCC]⟩ := by decide

/-- The parameters of R6 fit each other and the types of State: the counter's modulus, the largest frame, the header. -/
theorem test_parameters :
    Config.seqMod = 2 ^ Config.seqWidth ∧ Config.seqWidth = 8 ∧ Config.univWidth = 16 ∧ Config.respDataWidth = 16
      ∧ Config.bytesPerPixel * Config.maxLeds ≤ Config.maxDmxLen ∧ Config.pbufSize = Config.maxDmxLen
      ∧ (packetHeader 0 0 1).length = Config.headerLen := by decide

/-! ### Commands -/

/-- CF1. -/
theorem test_nop : after (exec .nop State.reset) = some { State.reset with resp := [⟨.ok, 0⟩] } := by decide

/-- CF4 and CF5: 170 is accepted, 171 is not. -/
theorem test_setled_170 : (after (exec (.setled 170) State.reset)).map (fun t => (t.ledCount, t.resp)) =
    some (170, [⟨.ok, 0⟩]) := by decide
theorem test_setled_171 : (after (exec (.setled 171) State.reset)).map (fun t => (t.ledCount, t.resp)) =
    some (30, [⟨.encodingError, 0⟩]) := by decide

/-- CF10. -/
theorem test_setuniv_all_ones : (after (exec (.setuniv 0xFFFF) State.reset)).map (fun t => (t.dataUniv, t.resp)) =
    some (0xFFFF, [⟨.ok, 0⟩]) := by decide

/-- B1, and a 0 written over it leaves the reset buffer. -/
theorem test_wrbyte_top : (after (exec (.wrbyte 511 0xAB) State.reset)).map (fun t => (t.pbuf.read 511, t.pbuf.read 510)) =
    some (0xAB, 0) := by decide
theorem test_wrbyte_zero_unlists :
    (after (exec (.wrbyte 511 0) { State.reset with pbuf := [(511, 0xAB)] })).map State.pbuf = some [] := by decide

/-- B2. -/
theorem test_rdbyte_top : (after (exec (.rdbyte 511) { State.reset with pbuf := [(511, 0xAB)] })).map State.resp =
    some [⟨.ok, 171⟩] := by decide

/-- B5. -/
theorem test_clear : (after (exec .clear { State.reset with pbuf := [(511, 0xAB)] })).map (fun t => (t.pbuf, t.resp)) =
    some ([], [⟨.ok, 0⟩]) := by decide

/-- T7: one pixel, and PBUF[3] is not sent. -/
theorem test_sendframe_T7 :
    (after (exec .sendframe { answering true with
      ledCount := 1, pbuf := [(0, 0xAA), (1, 0xBB), (2, 0xCC), (3, 0xDD)] })).map (fun t => (t.wire, t.seq, t.resp)) =
    some ([[0x41, 0x72, 0x74, 0x2D, 0x4E, 0x65, 0x74, 0x00, 0x00, 0x50, 0x00, 0x0E, 0x00, 0x00, 0x00, 0x00, 0x00, 0x03,
      0xAA, 0xBB, 0xCC]], 1, [⟨.ok, 0⟩]) := by decide

/-- T2: a refused frame. -/
theorem test_sendframe_T2 : (after (exec .sendframe (answering false))).map (fun t => (t.wire, t.seq, t.resp)) =
    some ([], 0, [⟨.networkUnavailable, 0⟩]) := by decide

/-- T5: the counter wraps. -/
theorem test_senddim_T5 : (after (exec (.senddim 0) { answering true with seq := 255 })).map
    (fun t => (t.wire, t.seq, t.resp)) =
    some ([[0x41, 0x72, 0x74, 0x2D, 0x4E, 0x65, 0x74, 0x00, 0x00, 0x50, 0x00, 0x0E, 0xFF, 0x00, 0x0F, 0x00, 0x00, 0x01,
      0x00]], 0, [⟨.ok, 255⟩]) := by decide

/-- T6: a refused dimmer packet. -/
theorem test_senddim_T6 : (after (exec (.senddim 0) { answering false with seq := 255 })).map
    (fun t => (t.wire, t.seq, t.resp)) = some ([], 255, [⟨.networkUnavailable, 0⟩]) := by decide

/-- RB3 and RB4. -/
theorem test_rdreg_leds : (after (exec (.rdreg 2) State.reset)).map State.resp = some [⟨.ok, 30⟩] := by decide
theorem test_rdreg_univ : (after (exec (.rdreg 1) { State.reset with dataUniv := 0x1234 })).map State.resp =
    some [⟨.ok, 4660⟩] := by decide

/-! ### Steps -/

theorem test_step_runs_the_fetched_word :
    (after (step (State.reset.withFetchWord 32 0x10000003))).map (fun t => (t.ledCount, t.hostPort)) = some (3, []) := by
  decide

/-- Whatever the transport answers, SENDFRAME goes on as the first command after reset. -/
theorem test_step_sendframe_from_reset : ∃ t, step (State.reset.withFetchWord 32 0x60000000) = .next t := ⟨_, rfl⟩

/-- Section 2.6: an illegal word gives (3, 0). -/
theorem test_step_illegal : (after (step (issuing 0x90000000))).map (fun t => t.resp.map Response.pair) =
    some [(3, 0)] := by decide

/-- R94 and R95. -/
theorem test_step_reset : (after (step { answering true with seq := 9, ledCount := 1, hostPort := [.reset] })).map
    (fun t => (t.seq, t.ledCount, t.txScript)) = some (0, 30, [true]) := by decide

/-! ### The assembler (the examples of R59 and R60) -/

theorem test_assemble_setled : Asm.assembleLine "SETLED 3" = .ok [0x10000003] := by decide
theorem test_assemble_wrbyte_hex : Asm.assembleLine "WRBYTE 0x1FF, 0xAB ; top" = .ok [0x31FF00AB] := by decide
theorem test_assemble_rdreg_name : Asm.assembleLine "RDREG LEDS" = .ok [0x80000002] := by decide
theorem test_assemble_wrpix : Asm.assembleLine "WRPIX 1, 0, 255, 0" = .ok [0x30030000, 0x300400FF, 0x30050000] := by decide
theorem test_assemble_range : Asm.assembleLine "WRBYTE 512, 0" = .error .operandRange := by decide
theorem test_assemble_off : Asm.assemble ["OFF", "; nothing"] = .ok [0x50000000, 0x60000000] := by decide

/-! ### Session duties -/

theorem test_session_setPixel_out_of_range :
    Session.setPixel 3 3 0 0 0 = .error .invalidPixelIndex := by decide

theorem test_session_setled_after_send :
    Session.keepsLedCount false [.setled 3, .sendframe, .setled 2] = false := by decide

/-! ### Witnesses: for each statement with hypotheses, a state and operands that meet them -/

/-- One dimmer packet sent from reset. -/
def dimPacket : Packet :=
  [0x41, 0x72, 0x74, 0x2D, 0x4E, 0x65, 0x74, 0x00, 0x00, 0x50, 0x00, 0x0E, 0x00, 0x00, 0x0F, 0x00, 0x00, 0x01, 0x80]

/-- A state reached by one accepted send and one rejected SETLED, with a byte in the buffer and two accepts to come. -/
def busy : State where
  seq := 1
  dataUniv := 15
  ledCount := 1
  pbuf := [(0, 7)]
  wire := [dimPacket]
  resp := [⟨.ok, 0⟩, ⟨.encodingError, 0⟩]
  hostPort := [.command 0x60000000, .command 0x70000005]
  txScript := [true, true]
  offers := 1

theorem witness_invariant : busy.Inv where
  led := by decide
  pbuf := by decide
  seqCount := by decide
  wirePackets k pkt h := by
    match k with
    | 0 => cases h; exact .inr ⟨0x80, by decide⟩
    | k + 1 => cases h
  errorData := by decide

theorem witness_DecodeOfEncodeIsTheCommand : (Instr.rdreg 2).wellFormed = true ∧ (Instr.wrbyte 511 255).wellFormed = true := by
  decide

theorem witness_EncodeOfDecodeIsTheWord : decode 0x31FF00FF = .ok (.wrbyte 511 255) := by decide

/-- Each clause in turn; the last is met by a reserved opcode and by RDREG with `sel = 3`. -/
theorem witness_DecoderFollowsMaskAndMatch :
    (0x00000000#32 &&& 0xFFFFFFFF = 0x00000000) ∧ (0x1000FFFF#32 &&& 0xFFFF0000 = 0x10000000)
      ∧ (0x2000FFFF#32 &&& 0xFFFF0000 = 0x20000000) ∧ (0x31FF00FF#32 &&& 0xFE00FF00 = 0x30000000)
      ∧ (0x41FF0000#32 &&& 0xFE00FFFF = 0x40000000) ∧ (0x50000000#32 &&& 0xFFFFFFFF = 0x50000000)
      ∧ (0x60000000#32 &&& 0xFFFFFFFF = 0x60000000) ∧ (0x700000FF#32 &&& 0xFFFFFF00 = 0x70000000)
      ∧ (0x80000002#32 &&& 0xFFFFFFFC = 0x80000000 ∧ (0x80000002#32).extractLsb' 0 2 ≠ 3)
      ∧ (∀ r ∈ opcodeTable, r.selects 0x90000000 = false) ∧ (∀ r ∈ opcodeTable, r.selects 0x80000003 = false) := by decide

theorem witness_OpcodeRowsAreDisjoint :
    ∃ r ∈ opcodeTable, (0x31FF00FF#32) &&& r.mask = r.bits := by decide

/-- The boundary words of each case of R56, on the port of a state; and a word of no case. -/
theorem witness_IllegalWordsRaiseIllegalCommand :
    9 ≤ ((0x90000000#32).extractLsb' 28 4).toNat ∧ (0x00000001#32).extractLsb' 0 28 ≠ 0
      ∧ (0x10010000#32).extractLsb' 16 12 ≠ 0 ∧ (0x32000000#32).extractLsb' 25 3 ≠ 0
      ∧ (0x30000100#32).extractLsb' 8 8 ≠ 0 ∧ (0x40000001#32).extractLsb' 0 16 ≠ 0
      ∧ (0x70000100#32).extractLsb' 8 20 ≠ 0 ∧ (0x80000004#32).extractLsb' 2 26 ≠ 0
      ∧ (0x80000003#32).extractLsb' 0 2 = 3
      ∧ (issuing 0x90000000).hostPort = .command 0x90000000 :: [] ∧ ((0x1000FFFF#32).extractLsb' 16 12 = 0) := by decide

/-- Also for every statement about a command word on the port and the state its step gives. -/
theorem witness_command_step : busy.hostPort = .command 0x60000000 :: [.command 0x70000005]
    ∧ decode 0x60000000 = .ok .sendframe ∧ ∃ t, step busy = .next t := ⟨rfl, by decide, _, rfl⟩

/-- WirePacketsAreNeverChanged: a packet is on WIRE. -/
theorem witness_WirePacketsAreNeverChanged : busy.wire[0]? = some dimPacket := rfl

/-- ErrorsChangeNothing: a refused send, and an illegal word, whose response is an error. -/
theorem witness_ErrorsChangeNothing :
    (after (step { issuing 0x60000000 with txScript := [false] })).map State.resp =
      some (State.reset.resp ++ [⟨.networkUnavailable, 0⟩])
    ∧ (after (step (issuing 0xF0000000))).map State.resp = some (State.reset.resp ++ [⟨.illegalCommand, 0⟩]) := by decide

theorem witness_IdleStepHoldsTheState : State.reset.hostPort = [] := rfl

/-- For both statements about the reset step. -/
theorem witness_reset_step : ({ busy with hostPort := [.reset] } : State).hostPort = .reset :: [] := rfl

/-- StepKeepsTheInvariant and NoStepEverStops: a state of the invariant whose step goes on. -/
theorem witness_StepKeepsTheInvariant : busy.Inv ∧ ∃ t, step busy = .next t := ⟨witness_invariant, _, rfl⟩

theorem witness_NopOnlyResponds : (0x00000001#32).extractLsb' 28 4 = 0 ∧ 0x00000001#32 ≠ 0 := by decide

/-- The legal clause at both ends, the other clause just outside them. -/
theorem witness_SetledSetsALegalCountOrRaises :
    (1 ≤ (1#16).toNat ∧ (1#16).toNat ≤ 170) ∧ (1 ≤ (170#16).toNat ∧ (170#16).toNat ≤ 170)
      ∧ (171#16).toNat > 170 ∧ (0#16).toNat < 1 := by decide

/-- For WRBYTE, the loop of writes, RDBYTE after WRBYTE and WRPIX: a canonical buffer; and WRPIX's last pixel. -/
theorem witness_canonical_buffer : busy.pbuf.wf = true ∧ 169 ≤ 169 := by decide

/-- For SENDFRAME, its packet and the clear-and-off frame: a legal count at both ends, and an accept to come. -/
theorem witness_sendframe : busy.LedLegal ∧ busy.txAnswer = true
    ∧ ({ answering true with ledCount := 170 } : State).LedLegal := by decide

theorem witness_DimmerPacketBytes : (answering true).txAnswer = true := by decide

theorem witness_packet_built : encodeDmx [0x80] 0 15 = some dimPacket := by decide

/-- PacketRoundTrip at both ends of the domain. -/
theorem witness_PacketRoundTrip :
    1 ≤ ([0x80] : List Byte).length ∧ (List.replicate 512 (0 : Byte)).length ≤ 512 :=
  ⟨by decide, (List.length_replicate ..).le⟩

theorem witness_RefusedSendReusesItsSequenceValue :
    let s : State := { State.reset with txScript := [false, true] }
    IsSend .sendframe = true ∧ IsSend (.senddim 5) = true ∧ s.txAnswer = false
      ∧ ((after (exec .sendframe s)).map State.txAnswer = some true)
      ∧ ((after (exec .sendframe s)).bind fun t => after (exec (.senddim 5) t)).isSome = true := by decide

/-- OnlyNamedCommandsWriteEachRegister and HistoriesAreNotRead: a command that goes on; the clauses in turn. -/
theorem witness_OnlyNamedCommandsWriteEachRegister :
    (after (exec (.setuniv 3) busy)).map State.dataUniv = some 3
      ∧ (after (exec (.setled 2) busy)).map State.ledCount = some 2
      ∧ (after (exec .clear busy)).map State.pbuf = some []
      ∧ (after (exec (.senddim 1) busy)).map State.seq = some 2 := by decide

theorem witness_SenddimIgnoresTheFrame : ∃ t, exec (.senddim 1) busy = .next t := ⟨_, rfl⟩

/-- Another buffer that agrees with the frame's three bytes. -/
theorem witness_SendframeIgnoresBytesBeyondTheFrame :
    (∀ a, a < 3 * busy.ledCount.toNat → Memory.read [(0, 7), (3, 9)] a = busy.pbuf.read a)
      ∧ ∃ t, exec .sendframe busy = .next t := ⟨by decide, _, rfl⟩

/-- Two packets on WIRE in a state of the invariant: the one after the next step of `busy`. -/
theorem witness_WireSequenceNumbersCountUp :
    (after (step busy)).map (fun t => t.wire.map fun p => byteAt p 12) = some [0, 1] := by decide

/-- Two sends on the port, both to be accepted. -/
theorem witness_SendsInARowWrapTheCounter :
    busy.Inv ∧ (∀ i ∈ [Instr.sendframe, .senddim 5], IsSend i = true)
      ∧ busy.hostPort = [Instr.sendframe, .senddim 5].map (fun i => .command (encode i))
      ∧ ∀ k, k < [Instr.sendframe, .senddim 5].length → busy.txScript[k]? = some true :=
  ⟨witness_invariant, by decide, by decide, by decide⟩

end Sys2Proof.Tests
end

section
/-! Masks, matches and fields of a command word (spec/30_encoding.md R52, R55): comparing under a mask is comparing
the fields the mask covers. -/

namespace Sys2Proof

/-- The mask of the field of `len` bits from bit `start` up. -/
def fieldMask (start len : Nat) : CmdWord := (BitVec.allOnes len).setWidth 32 <<< start

/-- The mask of several fields, given by their first bits and lengths. -/
def fieldsMask : List (Nat × Nat) → CmdWord
  | [] => 0
  | (start, len) :: fields => fieldMask start len ||| fieldsMask fields

/-- A bit is in a field's mask when it is in the field. -/
theorem fieldMask_getLsbD (start len k : Nat) :
    (fieldMask start len).getLsbD k = (decide (k < 32) && decide (start ≤ k) && decide (k < start + len)) := by
  simp only [fieldMask, BitVec.getLsbD_shiftLeft, BitVec.getLsbD_setWidth, BitVec.getLsbD_allOnes]
  grind

/-- Two words agree under a field's mask when they have the same field. -/
theorem and_fieldMask_eq_iff {start len : Nat} (h : start + len ≤ 32) (w c : CmdWord) :
    w &&& fieldMask start len = c &&& fieldMask start len ↔ w.extractLsb' start len = c.extractLsb' start len := by
  constructor
  · intro he
    apply BitVec.eq_of_getLsbD_eq
    intro k hk
    have hfit : start + k < 32 := by omega
    have hbit := congrArg (·.getLsbD (start + k)) he
    simp only [BitVec.getLsbD_and, fieldMask_getLsbD] at hbit
    simp only [BitVec.getLsbD_extractLsb', hk, decide_true, Bool.true_and]
    grind
  · intro he
    apply BitVec.eq_of_getLsbD_eq
    intro k hk
    have hbit := congrArg (·.getLsbD (k - start)) he
    simp only [BitVec.getLsbD_extractLsb'] at hbit
    simp only [BitVec.getLsbD_and, fieldMask_getLsbD]
    grind

/-- Two words agree under a mask of two parts when they agree under each. -/
theorem and_or_eq_iff (w c m₁ m₂ : CmdWord) :
    w &&& (m₁ ||| m₂) = c &&& (m₁ ||| m₂) ↔ w &&& m₁ = c &&& m₁ ∧ w &&& m₂ = c &&& m₂ := by
  constructor
  · intro h
    have part (m : CmdWord) (hm : (m₁ ||| m₂) &&& m = m) : w &&& m = c &&& m := by
      rw [← hm, ← BitVec.and_assoc, h, BitVec.and_assoc]
    constructor
    · exact part m₁ (by ext k; simp only [BitVec.getElem_and, BitVec.getElem_or]; cases m₁[k] <;> simp)
    · exact part m₂ (by ext k; simp only [BitVec.getElem_and, BitVec.getElem_or]; cases m₂[k] <;> simp)
  · rintro ⟨h₁, h₂⟩
    rw [BitVec.and_or_distrib_left, BitVec.and_or_distrib_left, h₁, h₂]

/-- Two words agree under the mask of several fields when they have the same fields. -/
theorem and_fieldsMask_eq_iff (w c : CmdWord) :
    ∀ {fields : List (Nat × Nat)}, (∀ f ∈ fields, f.1 + f.2 ≤ 32) →
      (w &&& fieldsMask fields = c &&& fieldsMask fields
        ↔ ∀ f ∈ fields, w.extractLsb' f.1 f.2 = c.extractLsb' f.1 f.2)
  | [], _ => by simp [fieldsMask]
  | (start, len) :: fields, h => by
    obtain ⟨hhead, htail⟩ := List.forall_mem_cons.1 h
    rw [fieldsMask, and_or_eq_iff, and_fieldMask_eq_iff hhead, and_fieldsMask_eq_iff w c htail, List.forall_mem_cons]

/-! ### The rows of the opcode map -/

/-- The reserved fields of a format (R52). -/
def Format.reserved : Format → List (Nat × Nat)
  | .z => [(0, 28)]
  | .n16 => [(16, 12)]
  | .av => [(25, 3), (8, 8)]
  | .a => [(25, 3), (0, 16)]
  | .b8 => [(8, 20)]
  | .s2 => [(2, 26)]

/-- The mask column of R55 for a format: the opcode and the reserved fields. -/
def Format.mask (f : Format) : CmdWord := fieldsMask ((28, 4) :: f.reserved)

/-- The `match` column of R55 for an opcode. -/
def matchBits (op : BitVec 4) : CmdWord := op ++ 0#28

theorem Format.reservedClear_iff (f : Format) (w : CmdWord) :
    f.reservedClear w = true ↔ ∀ r ∈ f.reserved, w.extractLsb' r.1 r.2 = 0 := by
  cases f <;> simp [Format.reservedClear, Format.reserved]

/-- The `match` column holds the opcode in `w[31:28]` and nothing in a reserved field. -/
theorem matchBits_fields (f : Format) (op : BitVec 4) :
    (matchBits op).extractLsb' 28 4 = op ∧ ∀ r ∈ f.reserved, (matchBits op).extractLsb' r.1 r.2 = 0 := by
  revert op; cases f <;> decide

/-- The mask column of a format covers the `match` column. -/
theorem matchBits_and_mask (f : Format) (op : BitVec 4) : matchBits op &&& f.mask = matchBits op := by
  revert op; cases f <;> decide

/-- R55's columns against R52's fields: a word is selected when it has the opcode and no reserved bit. -/
theorem and_mask_eq_matchBits_iff (f : Format) (op : BitVec 4) (w : CmdWord) :
    w &&& f.mask = matchBits op ↔ opField w = op ∧ f.reservedClear w = true := by
  have hfit : ∀ r ∈ (28, 4) :: f.reserved, r.1 + r.2 ≤ 32 := by cases f <;> decide
  obtain ⟨hop, hres⟩ := matchBits_fields f op
  rw [← matchBits_and_mask f op, Format.mask, and_fieldsMask_eq_iff w _ hfit, List.forall_mem_cons, hop,
    f.reservedClear_iff]
  exact and_congr_right fun _ => forall₂_congr fun r hr => by rw [hres r hr]

/-- The row of the opcode map that lists a command. -/
def Instr.row (i : Instr) : OpcodeRow where
  mnemonic := i.mnemonic
  bits := matchBits i.opcode
  mask := i.format.mask
  excluded := match i with
    | .rdreg _ => [0x80000003]
    | _ => []

theorem Instr.row_mem (i : Instr) : i.row ∈ opcodeTable := by
  cases i <;> simp only [Instr.row, Instr.mnemonic, Instr.opcode, Instr.format] <;> decide

/-- No word of the excluded column decodes to a command. -/
theorem Instr.row_excluded {i j : Instr} {w : CmdWord} (h : decode w = .ok j) : w ∉ i.row.excluded := by
  have hsel : decode 0x80000003 = .error .selThree := by decide
  cases i with
  | rdreg sel =>
    intro hw
    rw [List.mem_singleton.1 hw, hsel] at h
    cases h
  | _ => exact List.not_mem_nil

/-- A word that decodes to a command is selected by the command's row. -/
theorem row_selects_of_decode {w : CmdWord} {i : Instr} (h : decode w = .ok i) : i.row.selects w = true := by
  obtain ⟨hfields, hres, -⟩ := decode_eq_ok.1 h
  have hmatch : w &&& i.row.mask = i.row.bits :=
    (and_mask_eq_matchBits_iff i.format i.opcode w).2 ⟨fieldsOf_opcode hfields, hres⟩
  simp [OpcodeRow.selects, hmatch, Instr.row_excluded h]

/-- A word under the mask and match of a format and an opcode decodes to the command that its fields spell. -/
theorem decode_of_match {w : CmdWord} {i : Instr} (f : Format) (op : BitVec 4) (h : w &&& f.mask = matchBits op)
    (hfields : opField w = op → fieldsOf w = some i) (hformat : i.format = f) (hwf : i.wellFormed = true) :
    decode w = .ok i := by
  obtain ⟨hop, hres⟩ := (and_mask_eq_matchBits_iff f op w).1 h
  exact decode_eq_ok.2 ⟨hfields hop, by rwa [hformat], hwf⟩

/-- A word that decodes to no command decodes to an error. -/
theorem decode_error_of_not_ok {w : CmdWord} (h : ¬ ∃ i, decode w = .ok i) : ∃ e, decode w = .error e := by
  cases hd : decode w with
  | error e => exact ⟨e, rfl⟩
  | ok i => exact absurd ⟨i, hd⟩ h

/-- Settles O3: each row's mask and match say that the word has the row's opcode and no reserved bit, which is what
the decoder looks at; and a decoded word is selected by its command's row. -/
theorem decoderFollowsMaskAndMatch : Obligations.DecoderFollowsMaskAndMatch := by
  intro w
  refine ⟨fun h => ?nop, fun h => ?setled, fun h => ?setuniv, fun h => ?wrbyte, fun h => ?rdbyte, fun h => ?clear,
    fun h => ?sendframe, fun h => ?senddim, fun h hsel => ?rdreg, fun h => ?other⟩
  case nop => exact decode_of_match .z 0 h (fun hop => by rw [fieldsOf, hop]; rfl) rfl rfl
  case setled => exact decode_of_match .n16 1 h (fun hop => by rw [fieldsOf, hop]; rfl) rfl rfl
  case setuniv => exact decode_of_match .n16 2 h (fun hop => by rw [fieldsOf, hop]; rfl) rfl rfl
  case wrbyte => exact decode_of_match .av 3 h (fun hop => by rw [fieldsOf, hop]; rfl) rfl rfl
  case rdbyte => exact decode_of_match .a 4 h (fun hop => by rw [fieldsOf, hop]; rfl) rfl rfl
  case clear => exact decode_of_match .z 5 h (fun hop => by rw [fieldsOf, hop]; rfl) rfl rfl
  case sendframe => exact decode_of_match .z 6 h (fun hop => by rw [fieldsOf, hop]; rfl) rfl rfl
  case senddim => exact decode_of_match .b8 7 h (fun hop => by rw [fieldsOf, hop]; rfl) rfl rfl
  case rdreg => exact decode_of_match .s2 8 h (fun hop => by rw [fieldsOf, hop]; rfl) rfl (by simpa [Instr.wellFormed] using hsel)
  case other =>
    refine decode_error_of_not_ok fun ⟨i, hi⟩ => ?_
    exact absurd (row_selects_of_decode hi) (by simp [h i.row i.row_mem])

end Sys2Proof
end

section
/-! The illegal words of R56, and the step that takes one. -/

namespace Sys2Proof

open Sys2Proof.Machine

/-- The cases of R56 on the word's bits. -/
def InIllegalCase (w : CmdWord) : Prop :=
  let op := (opField w).toNat
  9 ≤ op
    ∨ (op = 0 ∨ op = 5 ∨ op = 6) ∧ w.extractLsb' 0 28 ≠ 0
    ∨ (op = 1 ∨ op = 2) ∧ w.extractLsb' 16 12 ≠ 0
    ∨ op = 3 ∧ (w.extractLsb' 25 3 ≠ 0 ∨ w.extractLsb' 8 8 ≠ 0)
    ∨ op = 4 ∧ (w.extractLsb' 25 3 ≠ 0 ∨ w.extractLsb' 0 16 ≠ 0)
    ∨ op = 7 ∧ w.extractLsb' 8 20 ≠ 0
    ∨ op = 8 ∧ (w.extractLsb' 2 26 ≠ 0 ∨ w.extractLsb' 0 2 = 3)

/-- A word decodes to a command exactly when it is in none of the cases of R56. -/
theorem exists_decode_ok_iff (w : CmdWord) : (∃ i, decode w = .ok i) ↔ ¬ InIllegalCase w := by
  simp only [decode_eq_ok, InIllegalCase]
  match hop : (opField w).toNat with
  | 0 | 1 | 2 | 3 | 4 | 5 | 6 | 7 | 8 =>
    simp [fieldsOf, hop, Instr.format, Format.reservedClear, Instr.wellFormed, selField]
  | k + 9 => simp [fieldsOf, hop]

/-- The step that takes an illegal word from the port answers (IllegalCommand, 0) and changes nothing else. -/
theorem step_illegal {s : State} {w : CmdWord} {rest : List HostEvent} {e : IllegalWord}
    (hport : s.hostPort = .command w :: rest) (hdecode : decode w = .error e) :
    step s = .next { s with hostPort := rest, resp := s.resp ++ [⟨.illegalCommand, 0⟩] } := by
  rw [step_command hport, runWord, hdecode, State.illegal_eq]; rfl

/-- Settles O5: the words in a case of R56 are those that decode to an error, and such a word's step only responds. -/
theorem illegalWordsRaiseIllegalCommand : Obligations.IllegalWordsRaiseIllegalCommand := by
  intro w
  refine ⟨fun (hillegal : InIllegalCase w) s rest hport => ?_, (exists_decode_ok_iff w).2⟩
  obtain ⟨e, he⟩ := decode_error_of_not_ok fun hok => (exists_decode_ok_iff w).1 hok hillegal
  exact step_illegal hport he

end Sys2Proof
end

section
/-! The bytes of a built packet (spec/30_encoding.md Part A). -/

namespace Sys2Proof.Machine

/-- Bytes 0..17 of a built packet are the header's. -/
theorem byteAt_header {s : Byte} {u : Half} {len k : Nat} (p : List Byte) (h : k < 18) :
    byteAt (packetHeader s u len ++ p) k = byteAt (packetHeader s u len) k :=
  List.getD_append _ _ _ _ (by simpa using h)

/-- What follows byte 17 of a built packet is the payload. -/
theorem drop_header (s : Byte) (u : Half) (len : Nat) (p : List Byte) : (packetHeader s u len ++ p).drop 18 = p :=
  List.drop_left' (packetHeader_length s u len)

/-- The low byte of a 16-bit value. -/
theorem lowByte_toNat (u : Half) : (u.extractLsb' 0 8).toNat = u.toNat % 256 := by
  rw [extract_toNat]; omega

/-- The high byte of a 16-bit value. -/
theorem highByte_toNat (u : Half) : (u.extractLsb' 8 8).toNat = u.toNat / 256 := by
  have hlt := u.isLt
  rw [extract_toNat]
  omega

/-- Settles O25: the header's bytes as `packetHeader_eq` lists them, then the payload. -/
theorem packetFieldsStandWhereListed : Obligations.PacketFieldsStandWhereListed := by
  intro p s u pkt h
  obtain ⟨-, rfl⟩ := encodeDmx_eq_some.1 h
  refine ⟨rfl, rfl, rfl, rfl, rfl, ?_, ?_, drop_header s u p.length p⟩
  · rw [byteAt_header p (by decide)]; exact lowByte_toNat u
  · rw [byteAt_header p (by decide)]; exact highByte_toNat u

end Sys2Proof.Machine
end

section
/-! The decoder against the encoder (spec/30_encoding.md R52, R55): a word decodes to a command of the map exactly
when it is the command's word. -/

namespace Sys2Proof

/-- The word of a command carries the command's opcode and no reserved bit. -/
theorem encode_opcode_reservedClear (i : Instr) : Laws.EncodeOpcode.Statement i := by
  cases i with
  | nop => exact Laws.EncodeOpcode.nop
  | setled n => exact Laws.EncodeOpcode.setled n
  | setuniv u => exact Laws.EncodeOpcode.setuniv u
  | wrbyte a v => exact Laws.EncodeOpcode.wrbyte a v
  | rdbyte a => exact Laws.EncodeOpcode.rdbyte a
  | clear => exact Laws.EncodeOpcode.clear
  | sendframe => exact Laws.EncodeOpcode.sendframe
  | senddim b => exact Laws.EncodeOpcode.senddim b
  | rdreg sel => exact Laws.EncodeOpcode.rdreg sel

/-- The fields of a command's word are the command's operands. -/
theorem fieldsOf_encode (i : Instr) : fieldsOf (encode i) = some i := by
  obtain ⟨hop, -⟩ := encode_opcode_reservedClear i
  rw [fieldsOf, hop]
  cases i with
  | nop | clear | sendframe => rfl
  | _ => simp [Instr.opcode, nField, aField, byteField, selField, extract_eq_iff]; omega

/-- A command of the map is decoded from its word. -/
theorem decode_encode {i : Instr} (h : i.wellFormed = true) : decode (encode i) = .ok i :=
  decode_eq_ok.2 ⟨fieldsOf_encode i, (encode_opcode_reservedClear i).2, h⟩

/-- The opcode, the operands and the reserved bits are all of a word's bits, so only the command's word has the
command's fields and no reserved bit. -/
theorem encode_of_fields {w : CmdWord} {i : Instr} (hfields : fieldsOf w = some i)
    (hres : i.format.reservedClear w = true) : encode i = w := by
  have hlt := w.isLt
  have hop := fieldsOf_opcode hfields
  rw [fieldsOf, hop] at hfields
  rw [opField, extract_eq_iff] at hop
  apply BitVec.eq_of_toNat_eq
  -- Each field is a quotient and a remainder of the word's number, and these add up to it in every format.
  cases i <;>
    simp [Instr.opcode, Instr.format, Format.reservedClear, nField, aField, byteField, selField, extract_eq_iff]
      at hfields hres hop ⊢ <;>
    omega

/-- A word decodes to a command of the map exactly when it has the number of the command's word. -/
theorem decode_eq_ok_iff_toNat {i : Instr} (h : i.wellFormed = true) (w : CmdWord) :
    decode w = .ok i ↔ w.toNat = (encode i).toNat := by
  rw [BitVec.toNat_inj]
  constructor
  · intro hdecode
    obtain ⟨hfields, hres, -⟩ := decode_eq_ok.1 hdecode
    exact (encode_of_fields hfields hres).symm
  · rintro rfl
    exact decode_encode h

/-- NOP alone has opcode 0 (R55). -/
theorem Instr.eq_nop_of_opcode {i : Instr} (h : i.opcode = 0) : i = .nop := by
  cases i with
  | nop => rfl
  | _ => simp [Instr.opcode] at h

/-- NOP is the command of the word 0 and of no other. -/
theorem decode_eq_nop_iff (w : CmdWord) : decode w = .ok .nop ↔ w = 0 := by
  rw [decode_eq_ok_iff_toNat rfl, BitVec.toNat_inj]; rfl

end Sys2Proof
end

section
/-! The configuration commands NOP, SETLED and SETUNIV (spec/41_config.md R61 to R63). -/

namespace Sys2Proof.Machine

/-- Settles O14: the word of NOP is 0, and a word with opcode 0 could decode to NOP only. -/
theorem nopOnlyResponds : Obligations.NopOnlyResponds := by
  refine ⟨exec_nop, decode_eq_nop_iff, fun w hop hne => decode_error_of_not_ok fun ⟨i, hi⟩ => ?_⟩
  obtain ⟨hfields, -⟩ := decode_eq_ok.1 hi
  have hnop : i = .nop := Instr.eq_nop_of_opcode ((fieldsOf_opcode hfields).symm.trans hop)
  exact hne ((decode_eq_nop_iff w).1 (hnop ▸ hi))

/-- SETLED with a legal count sets LED_COUNT and answers (OK, 0). -/
theorem exec_setled_legal {n : Half} (h : ledCountLegal n = true) (s : State) :
    exec (.setled n) s = .next ((s.setLedCount (n.setWidth 8)).respond .ok 0) := by
  rw [exec_setled, if_pos h]

/-- SETLED with any other count raises EncodingError. -/
theorem exec_setled_illegal {n : Half} (h : ledCountLegal n ≠ true) (s : State) :
    exec (.setled n) s = .next (s.respond .encodingError 0) := by
  rw [exec_setled, if_neg h]

/-- Settles O15: the legal counts are 1..170, which LED_COUNT's eight bits hold. -/
theorem setledSetsALegalCountOrRaises : Obligations.SetledSetsALegalCountOrRaises := by
  intro n
  refine ⟨fun s hmin hmax => ?legal, fun s hout => ?illegal, fun w => ?word⟩
  case legal =>
    have hlegal : ledCountLegal n = true := (ledCountLegal_iff n).2 ⟨hmin, hmax⟩
    exact ⟨n.setWidth 8, ledCountLegal_toNat hlegal, exec_setled_legal hlegal s⟩
  case illegal =>
    have hillegal : ledCountLegal n ≠ true := by rw [Ne, ledCountLegal_iff]; omega
    exact exec_setled_illegal hillegal s
  case word => rw [decode_eq_ok_iff_toNat rfl, encode_setled_toNat]

/-- Settles O16: SETUNIV tests nothing, and its word is its opcode's with u in the low half. -/
theorem setunivSetsTheDataUniverse : Obligations.SetunivSetsTheDataUniverse := by
  intro u
  refine ⟨exec_setuniv u, fun w => ?_⟩
  rw [decode_eq_ok_iff_toNat rfl, encode_setuniv_toNat]

end Sys2Proof.Machine
end

section
/-! The payload buffer commands WRBYTE, RDBYTE and CLEAR (spec/42_buffer.md R64 to R66). -/

namespace Sys2Proof.Machine

/-- Settles O17: the write keeps the canonical form, and a read of the written buffer differs at `a` alone. -/
theorem wrbyteWritesOneByte : Obligations.WrbyteWritesOneByte := by
  intro a v
  refine ⟨fun s hwf => ⟨s.pbuf.write a.toNat v, exec_wrbyte a v s, ?canonical, ?written, fun b hb => ?kept⟩,
    fun w => ?word⟩
  case canonical => exact Memory.wf_write hwf a.isLt v
  case written => rw [Memory.read_write hwf, if_pos rfl]
  case kept => rw [Memory.read_write hwf, if_neg hb]
  case word => rw [decode_eq_ok_iff_toNat rfl, encode_wrbyte_toNat]

/-- Settles O18: RDBYTE only responds, and the zero extension of a byte to 16 bits has the byte's number. -/
theorem rdbyteReturnsTheByte : Obligations.RdbyteReturnsTheByte := by
  intro a
  refine ⟨fun s => ⟨(s.pbuf.read a.toNat).setWidth 16, ?zeroExtended, exec_rdbyte a s⟩, fun w => ?word⟩
  case zeroExtended => exact BitVec.toNat_setWidth_of_le (by decide)
  case word => rw [decode_eq_ok_iff_toNat rfl, encode_rdbyte_toNat]

/-- CLEAR is the command of the word 0x50000000 and of no other. -/
theorem decode_eq_clear_iff (w : CmdWord) : decode w = .ok .clear ↔ w = 0x50000000 := by
  rw [decode_eq_ok_iff_toNat rfl, BitVec.toNat_inj]; rfl

/-- Settles O19: the buffer CLEAR leaves lists no byte, so it is canonical and reads 0 everywhere. -/
theorem clearZeroesTheBuffer : Obligations.ClearZeroesTheBuffer :=
  ⟨fun s => ⟨Memory.clear, exec_clear s, Memory.wf_clear, Memory.read_nil⟩, decode_eq_clear_iff⟩

end Sys2Proof.Machine
end

section
/-! The transmit commands SENDFRAME and SENDDIM, and the sequence counter they advance (spec/43_transmit.md R69 to
R71). -/

namespace Sys2Proof.Machine

/-- An offer with both of the transport's answers. -/
theorem State.offerPacket_eq (s : State) (pkt : Packet) :
    s.offerPacket pkt = if s.txAnswer then
        { s with wire := s.wire ++ [pkt], seq := s.nextSeq, resp := s.resp ++ [⟨.ok, s.seq.setWidth 16⟩],
                 txScript := s.txScript.tail, offers := s.offers + 1 }
      else
        { s with resp := s.resp ++ [⟨.networkUnavailable, 0⟩],
                 txScript := s.txScript.tail, offers := s.offers + 1 } := by
  cases h : s.txAnswer with
  | true => rw [State.offerPacket_accept s h, if_pos rfl]
  | false => rw [State.offerPacket_refuse s h, if_neg Bool.false_ne_true]

/-- SENDFRAME is the command of the word 0x60000000 and of no other. -/
theorem decode_eq_sendframe_iff (w : CmdWord) : decode w = .ok .sendframe ↔ w = 0x60000000 := by
  rw [decode_eq_ok_iff_toNat rfl, BitVec.toNat_inj]; rfl

/-- Settles O21: a legal LED_COUNT gives a frame of 3 to 510 bytes, which is in the serialization's domain. -/
theorem sendframeOffersTheFrame : Obligations.SendframeOffersTheFrame := by
  refine ⟨fun s hled => ?_, decode_eq_sendframe_iff⟩
  have hmin : 1 ≤ s.frame.length := by rw [State.frame_length]; omega
  have hmax : s.frame.length ≤ 512 := by rw [State.frame_length]; omega
  refine ⟨_, encodeDmx_of_length s.seq s.dataUniv hmin hmax, ?_⟩
  rw [exec_sendframe, State.send_of_length s s.dataUniv hmin hmax, State.offerPacket_eq]
  rfl

/-- Settles O22: one byte is in the serialization's domain whatever the state. -/
theorem senddimOffersOneByteOnUniverse15 : Obligations.SenddimOffersOneByteOnUniverse15 := by
  intro b
  have hmin : 1 ≤ [b].length := by simp
  have hmax : [b].length ≤ 512 := by simp
  refine ⟨fun s => ⟨_, encodeDmx_of_length s.seq 15 hmin hmax, ?sent⟩, fun w => ?word⟩
  case sent =>
    rw [exec_senddim, State.send_of_length s 15 hmin hmax, State.offerPacket_eq]
    rfl
  case word => rw [decode_eq_ok_iff_toNat rfl, encode_senddim_toNat]

/-- Byte 12 of a built packet is the sequence value it was built with (R43). -/
theorem byteAt_twelve_of_encodeDmx {payload : List Byte} {q : Byte} {u : Half} {pkt : Packet}
    (h : encodeDmx payload q u = some pkt) : byteAt pkt 12 = q := by
  obtain ⟨-, rfl⟩ := encodeDmx_eq_some.1 h
  rfl

/-- A send that goes on offers one packet, which carries SEQ. -/
theorem exec_send_offers {i : Instr} {s t : State} (hsend : IsSend i = true) (h : exec i s = .next t) :
    ∃ pkt, byteAt pkt 12 = s.seq ∧ t = s.offerPacket pkt := by
  cases i with
  | sendframe =>
    obtain ⟨pkt, hpkt, ht⟩ := State.send_next (exec_sendframe s ▸ h)
    exact ⟨pkt, byteAt_twelve_of_encodeDmx hpkt, ht⟩
  | senddim b =>
    obtain ⟨pkt, hpkt, ht⟩ := State.send_next (exec_senddim b s ▸ h)
    exact ⟨pkt, byteAt_twelve_of_encodeDmx hpkt, ht⟩
  | _ => cases hsend

/-- An accepted send appends a packet that carries the old SEQ, and advances SEQ. -/
theorem exec_send_accepted {i : Instr} {s t : State} (hsend : IsSend i = true) (h : exec i s = .next t)
    (hanswer : s.txAnswer = true) :
    ∃ pkt, t.wire = s.wire ++ [pkt] ∧ byteAt pkt 12 = s.seq ∧ t.seq = s.nextSeq := by
  obtain ⟨pkt, hseq, rfl⟩ := exec_send_offers hsend h
  rw [State.offerPacket_accept s hanswer]
  exact ⟨pkt, rfl, hseq, rfl⟩

/-- A refused send leaves WIRE and SEQ. -/
theorem exec_send_refused {i : Instr} {s t : State} (hsend : IsSend i = true) (h : exec i s = .next t)
    (hanswer : s.txAnswer = false) : t.wire = s.wire ∧ t.seq = s.seq := by
  obtain ⟨pkt, -, rfl⟩ := exec_send_offers hsend h
  rw [State.offerPacket_refuse s hanswer]
  exact ⟨rfl, rfl⟩

/-- A command that is not a send leaves WIRE and SEQ. -/
theorem exec_not_send {i : Instr} {s t : State} (hnot : IsSend i = false) (h : exec i s = .next t) :
    t.wire = s.wire ∧ t.seq = s.seq := by
  cases i with
  | nop | setuniv | wrbyte | rdbyte | clear => cases h; exact ⟨rfl, rfl⟩
  | setled n =>
    rw [exec_setled] at h; cases h
    split <;> exact ⟨rfl, rfl⟩
  | rdreg sel =>
    rw [exec_rdreg] at h; cases h
    split <;> exact ⟨rfl, rfl⟩
  | sendframe | senddim => cases hnot

/-- What a step that takes a command word can do: answer an illegal word, or run the word's command. -/
theorem step_command_cases {s t : State} {w : CmdWord} {rest : List HostEvent}
    (hport : s.hostPort = .command w :: rest) (hstep : step s = .next t) :
    (∃ e, decode w = .error e ∧ t = { s with hostPort := rest, resp := s.resp ++ [⟨.illegalCommand, 0⟩] })
      ∨ ∃ i, decode w = .ok i ∧ exec i { s with hostPort := rest } = .next t := by
  cases hdecode : decode w with
  | error e =>
    rw [step_illegal hport hdecode] at hstep
    cases hstep
    exact .inl ⟨e, rfl, rfl⟩
  | ok i =>
    rw [step_command hport, runWord, hdecode] at hstep
    exact .inr ⟨i, rfl, hstep⟩

/-- Settles O31: only an accepted send appends to WIRE or advances SEQ; an illegal word, a command that is not a send
and a refused send leave both. -/
theorem seqAdvancesOncePerAcceptedPacket : Obligations.SeqAdvancesOncePerAcceptedPacket := by
  intro s t w rest hport hstep
  obtain ⟨e, hdecode, rfl⟩ | ⟨i, hdecode, hexec⟩ := step_command_cases hport hstep
  · exact .inr ⟨by simp [hdecode], rfl, rfl⟩
  cases hsend : IsSend i with
  | false =>
    obtain ⟨hwire, hseq⟩ := exec_not_send hsend hexec
    exact .inr ⟨by simp [hdecode, hsend], hwire, hseq⟩
  | true =>
    cases hanswer : s.txAnswer with
    | false =>
      obtain ⟨hwire, hseq⟩ := exec_send_refused hsend hexec hanswer
      exact .inr ⟨by simp, hwire, hseq⟩
    | true =>
      obtain ⟨pkt, hwire, hcarries, hseq⟩ := exec_send_accepted hsend hexec hanswer
      exact .inl ⟨⟨i, hdecode, hsend⟩, rfl, pkt, hwire, hcarries, by rw [hseq]; exact State.nextSeq_toNat _⟩

end Sys2Proof.Machine
end

section
/-! The register readback command RDREG (spec/44_readback.md R75). -/

namespace Sys2Proof.Machine

/-- RDREG with a selector that names a register answers (OK, the register). -/
theorem exec_rdreg_some {sel : BitVec 2} {s : State} {v : Half} (h : s.readReg sel = some v) :
    exec (.rdreg sel) s = .next (s.respond .ok v) := by
  rw [exec_rdreg, h]

/-- RDREG with a selector that names none raises IllegalCommand. -/
theorem exec_rdreg_none {sel : BitVec 2} {s : State} (h : s.readReg sel = none) :
    exec (.rdreg sel) s = .next (s.respond .illegalCommand 0) := by
  rw [exec_rdreg, h]

/-- RDREG is one of the map's commands exactly when `sel` is not 3 (R55, R56). -/
theorem wellFormed_rdreg_iff (sel : BitVec 2) : (Instr.rdreg sel).wellFormed = true ↔ sel ≠ 3 :=
  bne_iff_ne

/-- A word decodes to RDREG exactly when `sel` is not 3 and the word is the command's. -/
theorem decode_eq_rdreg_iff (w : CmdWord) (sel : BitVec 2) :
    decode w = .ok (.rdreg sel) ↔ sel ≠ 3 ∧ w.toNat = 0x80000000 + sel.toNat := by
  rw [← wellFormed_rdreg_iff, ← encode_rdreg_toNat]
  constructor
  · intro hdecode
    obtain ⟨-, -, hwf⟩ := decode_eq_ok.1 hdecode
    exact ⟨hwf, (decode_eq_ok_iff_toNat hwf w).1 hdecode⟩
  · rintro ⟨hwf, hw⟩
    exact (decode_eq_ok_iff_toNat hwf w).2 hw

/-- Settles O23: selectors 0, 1 and 2 name SEQ, DATA_UNIV and LED_COUNT, and 3 names no register and is not in the
map. -/
theorem rdregReturnsTheRegister : Obligations.RdregReturnsTheRegister := by
  refine ⟨fun s => ⟨?seq, ?dataUniv, ?ledCount, ?none⟩, decode_eq_rdreg_iff, .selThree, ?illegal⟩
  case seq => exact exec_rdreg_some rfl
  case dataUniv => exact exec_rdreg_some rfl
  case ledCount => exact exec_rdreg_some rfl
  case none => exact exec_rdreg_none rfl
  case illegal => decide

end Sys2Proof.Machine
end

section
/-! The responses of the command words and what an error leaves (spec/60_exceptions.md R76 to R80). -/

namespace Sys2Proof.Machine

/-- What a word that the decoder gives this result may answer, by R76's table. -/
inductive MayAnswer : Except IllegalWord Instr → Response → Prop where
  /-- A command that completes and has nothing to report. -/
  | done (i : Instr) : MayAnswer (.ok i) ⟨.ok, 0⟩
  /-- RDBYTE (R65). -/
  | readByte (a : PbufAddr) (d : Half) : MayAnswer (.ok (.rdbyte a)) ⟨.ok, d⟩
  /-- RDREG (R75). -/
  | readRegister (sel : BitVec 2) (d : Half) : MayAnswer (.ok (.rdreg sel)) ⟨.ok, d⟩
  /-- An accepted send, with the sequence value it used (R69, R70). -/
  | accepted {i : Instr} (hsend : IsSend i = true) (d : Half) : MayAnswer (.ok i) ⟨.ok, d⟩
  /-- A refused send (R79). -/
  | refused {i : Instr} (hsend : IsSend i = true) : MayAnswer (.ok i) ⟨.networkUnavailable, 0⟩
  /-- SETLED with a count outside 1..170 (R78). -/
  | rejected (n : Half) : MayAnswer (.ok (.setled n)) ⟨.encodingError, 0⟩
  /-- An illegal word (R80). -/
  | illegal (e : IllegalWord) : MayAnswer (.error e) ⟨.illegalCommand, 0⟩

section Table

variable {x : Except IllegalWord Instr} {r : Response} (h : MayAnswer x r)

include h

/-- EncodingError is SETLED's, without data. -/
theorem MayAnswer.of_encodingError (hcode : r.code = .encodingError) :
    (∃ n, x = .ok (.setled n)) ∧ r.data = 0 := by
  cases h with
  | rejected n => exact ⟨⟨n, rfl⟩, rfl⟩
  | _ => cases hcode

/-- NetworkUnavailable is a send's, without data. -/
theorem MayAnswer.of_networkUnavailable (hcode : r.code = .networkUnavailable) :
    (∃ i, x = .ok i ∧ IsSend i = true) ∧ r.data = 0 := by
  cases h with
  | refused hsend => exact ⟨⟨_, rfl, hsend⟩, rfl⟩
  | _ => cases hcode

/-- IllegalCommand is an illegal word's, without data. -/
theorem MayAnswer.of_illegalCommand (hcode : r.code = .illegalCommand) : (∃ e, x = .error e) ∧ r.data = 0 := by
  cases h with
  | illegal e => exact ⟨⟨e, rfl⟩, rfl⟩
  | _ => cases hcode

/-- An OK with data that is not 0 is a send's, RDBYTE's or RDREG's. -/
theorem MayAnswer.of_ok (hcode : r.code = .ok) (hdata : r.data ≠ 0) :
    ∃ i, x = .ok i ∧ (IsSend i = true ∨ (∃ a, i = .rdbyte a) ∨ ∃ sel, i = .rdreg sel) := by
  cases h with
  | done i => exact absurd rfl hdata
  | accepted hsend => exact ⟨_, rfl, .inl hsend⟩
  | readByte a => exact ⟨_, rfl, .inr (.inl ⟨a, rfl⟩)⟩
  | readRegister sel => exact ⟨_, rfl, .inr (.inr ⟨sel, rfl⟩)⟩
  | refused | rejected | illegal => cases hcode

end Table

/-- The one response of a send, with both of the transport's answers. -/
theorem exec_send_answers {i : Instr} {s t : State} (hsend : IsSend i = true) (h : exec i s = .next t) :
    ∃ r, t.resp = s.resp ++ [r] ∧ MayAnswer (.ok i) r := by
  obtain ⟨pkt, -, rfl⟩ := exec_send_offers hsend h
  cases hanswer : s.txAnswer with
  | true => rw [State.offerPacket_accept s hanswer]; exact ⟨_, rfl, .accepted hsend _⟩
  | false => rw [State.offerPacket_refuse s hanswer]; exact ⟨_, rfl, .refused hsend⟩

/-- A command of the opcode map that goes on gives one response, of those R76 lists for it. -/
theorem exec_answers {i : Instr} {s t : State} (hwf : i.wellFormed = true) (h : exec i s = .next t) :
    ∃ r, t.resp = s.resp ++ [r] ∧ MayAnswer (.ok i) r := by
  cases i with
  | nop | setuniv | wrbyte | clear => cases h; exact ⟨_, rfl, .done _⟩
  | rdbyte a => cases h; exact ⟨_, rfl, .readByte a _⟩
  | sendframe | senddim => exact exec_send_answers rfl h
  | setled n =>
    by_cases hn : ledCountLegal n = true
    · rw [exec_setled_legal hn] at h; cases h; exact ⟨_, rfl, .done _⟩
    · rw [exec_setled_illegal hn] at h; cases h; exact ⟨_, rfl, .rejected n⟩
  | rdreg sel =>
    have hsome : (s.readReg sel).isSome = true := (s.readReg_isSome sel).trans hwf
    obtain ⟨v, hv⟩ := Option.isSome_iff_exists.1 hsome
    rw [exec_rdreg_some hv] at h; cases h
    exact ⟨_, rfl, .readRegister sel v⟩

/-- A step that takes a command word gives one response, of those R76 lists for what the word decodes to. -/
theorem step_command_answers {s t : State} {w : CmdWord} {rest : List HostEvent}
    (hport : s.hostPort = .command w :: rest) (hstep : step s = .next t) :
    ∃ r, t.resp = s.resp ++ [r] ∧ MayAnswer (decode w) r := by
  obtain ⟨e, hdecode, rfl⟩ | ⟨i, hdecode, hexec⟩ := step_command_cases hport hstep
  · exact ⟨_, rfl, hdecode ▸ .illegal e⟩
  · obtain ⟨-, -, hwf⟩ := decode_eq_ok.1 hdecode
    obtain ⟨r, hresp, hanswer⟩ := exec_answers hwf hexec
    exact ⟨r, hresp, hdecode ▸ hanswer⟩

/-- Settles O33: the step's one response is of those R76 lists for the word, and R76's table is read off case by
case. -/
theorem oneResponsePerCommand : Obligations.OneResponsePerCommand := by
  refine ⟨⟨rfl, rfl, rfl, rfl⟩, fun s t w rest hport hstep => ?_⟩
  obtain ⟨r, hresp, hanswer⟩ := step_command_answers hport hstep
  exact ⟨r, hresp, hanswer.of_encodingError, hanswer.of_networkUnavailable, hanswer.of_illegalCommand,
    hanswer.of_ok⟩

/-- An offer's one response, which is an error only when the offer is refused and the block stays as it is. -/
theorem State.offerPacket_response (s : State) (pkt : Packet) :
    ∃ r, (s.offerPacket pkt).resp = s.resp ++ [r]
      ∧ (r.code ≠ .ok → r.data = 0 ∧ s.SameBlock (s.offerPacket pkt)) := by
  cases hanswer : s.txAnswer with
  | true =>
    rw [State.offerPacket_accept s hanswer]
    exact ⟨_, rfl, fun herror => absurd rfl herror⟩
  | false =>
    rw [State.offerPacket_refuse s hanswer]
    exact ⟨_, rfl, fun _ => ⟨rfl, rfl, rfl, rfl, rfl, rfl⟩⟩

/-- A command's one response: when it is an error, it has no data and the block is as before. -/
theorem Effect.response {s t : State} (h : Effect s t) :
    ∃ r, t.resp = s.resp ++ [r] ∧ (r.code ≠ .ok → r.data = 0 ∧ s.SameBlock t) := by
  cases h with
  | responds c d hdata => exact ⟨_, rfl, fun herror => ⟨hdata herror, rfl, rfl, rfl, rfl, rfl⟩⟩
  | ledCount | dataUniv | write | clear => exact ⟨_, rfl, fun herror => absurd rfl herror⟩
  | frame pkt | dimmer _ pkt => exact s.offerPacket_response pkt

/-- A step that takes a command word has a command's effect; an illegal word only responds. -/
theorem step_command_effect {s t : State} {w : CmdWord} {rest : List HostEvent}
    (hport : s.hostPort = .command w :: rest) (hstep : step s = .next t) : Effect { s with hostPort := rest } t := by
  obtain ⟨e, -, rfl⟩ | ⟨i, -, hexec⟩ := step_command_cases hport hstep
  · exact .responds .illegalCommand 0 fun _ => rfl
  · exact exec_effect hexec

/-- Settles O34: taking the word from the port leaves the block, and of the effects a command can have only a lone
response and a refused offer answer with an error. -/
theorem errorsChangeNothing : Obligations.ErrorsChangeNothing := by
  intro s t w rest hport hstep r hresp herror
  obtain ⟨r', hresp', hkeeps⟩ := (step_command_effect hport hstep).response
  obtain rfl : r = r' := List.singleton_inj.1 (List.append_cancel_left (hresp.symm.trans hresp'))
  exact hkeeps herror

end Sys2Proof.Machine
end

section
/-! The values reset leaves (spec/70_reset_and_hazards.md R94). -/

namespace Sys2Proof.Machine

/-- A reset taken in the state after reset changes nothing. -/
theorem State.takeReset_reset : State.reset.takeReset = State.reset := rfl

/-- After a reset every byte of the payload buffer reads 0. -/
@[simp] theorem State.takeReset_readPbuf (s : State) (a : PbufAddr) : s.takeReset.readPbuf a = 0 := by
  rw [State.readPbuf, State.takeReset_pbuf, Memory.read_nil]

/-- R94's table, for a reset taken in any state. -/
theorem State.takeReset_values (s : State) :
    s.takeReset.seq = 0 ∧ s.takeReset.dataUniv = 0 ∧ s.takeReset.ledCount = 30
      ∧ (∀ a : PbufAddr, s.takeReset.readPbuf a = 0) ∧ s.takeReset.wire = [] ∧ s.takeReset.resp = [] :=
  ⟨s.takeReset_seq, s.takeReset_dataUniv, s.takeReset_ledCount, s.takeReset_readPbuf, s.takeReset_wire,
    s.takeReset_resp⟩

/-- Settles O9: a reset leaves R94's values in whatever state it is taken, and the state after reset is one that a
reset leaves. -/
theorem resetValuesAsListed : Obligations.ResetValuesAsListed := by
  refine ⟨?atReset, fun s rest hport => ⟨_, step_reset hport, ?afterStep⟩⟩
  case atReset => exact State.takeReset_reset ▸ State.reset.takeReset_values
  case afterStep => exact State.takeReset_values _

end Sys2Proof.Machine
end

section
/-! Decoding and encoding undo each other, and the rows of the opcode map exclude each other (spec/30_encoding.md
Part B). -/

namespace Sys2Proof

/-- Settles O1: the fields of the command's word spell the command, with its opcode and no reserved bit. -/
theorem decodeOfEncodeIsTheCommand : Obligations.DecodeOfEncodeIsTheCommand :=
  fun _ hwf => decode_encode hwf

/-- Settles O2: an accepted word has the command's fields and no reserved bit, which leaves the command's word alone. -/
theorem encodeOfDecodeIsTheWord : Obligations.EncodeOfDecodeIsTheWord := by
  intro w i hdecode
  obtain ⟨hfields, hres, hwf⟩ := decode_eq_ok.1 hdecode
  exact ⟨hwf, encode_of_fields hfields hres⟩

/-- Every mask of the opcode map covers `w[31:28]`. -/
theorem opcodeTable_mask_covers_opcode :
    ∀ r ∈ opcodeTable, r.mask.extractLsb' 28 4 = BitVec.allOnes 4 := by decide

/-- The opcode in a row's `match` column tells the row. -/
theorem opcodeTable_row_eq_of_opcode :
    ∀ r ∈ opcodeTable, ∀ r' ∈ opcodeTable, r'.bits.extractLsb' 28 4 = r.bits.extractLsb' 28 4 → r' = r := by decide

/-- A word that a row's mask and match select has the row's opcode. -/
theorem opcode_of_row_match {w : CmdWord} {r : OpcodeRow} (hr : r ∈ opcodeTable) (h : w &&& r.mask = r.bits) :
    w.extractLsb' 28 4 = r.bits.extractLsb' 28 4 := by
  rw [← h, BitVec.extractLsb'_and, opcodeTable_mask_covers_opcode r hr, BitVec.and_allOnes]

/-- Settles O4: both rows' opcodes are the word's, and no two rows have one opcode. -/
theorem opcodeRowsAreDisjoint : Obligations.OpcodeRowsAreDisjoint := by
  intro w r r' hr hr' hmatch
  have hop := opcode_of_row_match hr hmatch
  refine ⟨hop, fun hmatch' => opcodeTable_row_eq_of_opcode r hr r' hr' ?_⟩
  exact (opcode_of_row_match hr' hmatch').symm.trans hop

/-- Settles O6: the decoder is run on each printed word. -/
theorem printedWordsDecode : Obligations.PrintedWordsDecode := by
  unfold Obligations.PrintedWordsDecode
  decide

end Sys2Proof
end

section
/-! The step on each kind of event, and the frame of a reset step (spec/60_exceptions.md R93;
spec/70_reset_and_hazards.md R94, R95). -/

namespace Sys2Proof.Machine

/-- A step that takes a legal word runs its command. -/
theorem step_of_decode {s : State} {w : CmdWord} {rest : List HostEvent} {i : Instr}
    (hport : s.hostPort = .command w :: rest) (hdecode : decode w = .ok i) :
    step s = exec i { s with hostPort := rest } := by
  rw [step_command hport, runWord, hdecode]

/-- Settles O7: the step takes the word from the port, and what it decodes to is run. -/
theorem stepRunsTheDecodedCommand : Obligations.StepRunsTheDecodedCommand :=
  fun _ _ _ _ hport hdecode => step_of_decode hport hdecode

/-- Settles O8: with no event to take, the state is idle. -/
theorem idleStepHoldsTheState : Obligations.IdleStepHoldsTheState :=
  fun _ hport => step_idle hport

/-- Settles O10: a reset takes the environment's three fields over. -/
theorem resetStepKeepsTheEnvironment : Obligations.ResetStepKeepsTheEnvironment :=
  fun _ _ hport => ⟨_, step_reset hport, State.takeReset_hostPort _, State.takeReset_txScript _,
    State.takeReset_offers _⟩

end Sys2Proof.Machine
end

section
/-! The invariant of Safety.lean: each operation keeps it, so every effect of a command and every step does; and from
it no step stops. -/

namespace Sys2Proof.Machine

namespace State.Inv

/-- A reset establishes the invariant in whatever state it is taken. -/
theorem takeReset (s : State) : s.takeReset.Inv where
  led := (by decide : 1 ≤ (30 : Byte).toNat ∧ (30 : Byte).toNat ≤ 170)
  pbuf := Memory.wf_clear
  seqCount := rfl
  wirePackets k pkt h := by simp at h
  errorData r hr := absurd hr List.not_mem_nil

variable {s : State} (hs : s.Inv)

include hs

/-- The invariant says nothing about the port. -/
theorem setHostPort (rest : List HostEvent) : { s with hostPort := rest }.Inv := { hs with }

/-- The invariant says nothing about the answers still to come. -/
theorem useAnswer : s.useAnswer.Inv := { hs with }

theorem setDataUniv (u : Half) : (s.setDataUniv u).Inv := { hs with }

theorem setLedCount {v : Byte} (hv : 1 ≤ v.toNat ∧ v.toNat ≤ 170) : (s.setLedCount v).Inv := { hs with led := hv }

theorem setPbuf {m : Memory} (hm : m.wf = true) : (s.setPbuf m).Inv := { hs with pbuf := hm }

/-- A response keeps the invariant if it has no data when it is an error. -/
theorem respond {c : RespCode} {d : Half} (hdata : c ≠ .ok → d = 0) : (s.respond c d).Inv :=
  { hs with
    errorData := fun r hr herror => by
      rw [respond_resp, List.mem_append, List.mem_singleton] at hr
      obtain hold | rfl := hr
      · exact hs.errorData r hold herror
      · exact hdata herror }

/-- SEQ is the number modulo 256 of the packet that is accepted next. -/
theorem seq_eq : s.seq = BitVec.ofNat 8 s.wire.length :=
  BitVec.eq_of_toNat_eq (by rw [hs.seqCount, BitVec.toNat_ofNat])

/-- A sent packet that carries SEQ may go on WIRE if SEQ advances with it. -/
theorem appendWire {pkt : Packet} (hpkt : IsSentPacket s.seq pkt) :
    ((s.appendWire pkt).setSeq s.nextSeq).Inv :=
  { hs with
    seqCount := by
      rw [setSeq_seq, nextSeq_toNat, setSeq_wire, appendWire_wire, List.length_append, List.length_singleton,
        hs.seqCount]
      omega
    wirePackets := fun k p hk => by
      rw [setSeq_wire, appendWire_wire, List.getElem?_append] at hk
      split at hk
      · exact hs.wirePackets k p hk
      · next hlen =>
        obtain ⟨hk0, rfl⟩ : k - s.wire.length = 0 ∧ pkt = p := by simpa [List.getElem?_singleton] using hk
        obtain rfl : k = s.wire.length := by omega
        exact hs.seq_eq ▸ hpkt }

/-- An offer of a sent packet that carries SEQ keeps the invariant, whatever the transport answers. -/
theorem offerPacket {pkt : Packet} (hpkt : IsSentPacket s.seq pkt) : (s.offerPacket pkt).Inv := by
  unfold State.offerPacket
  split
  case isTrue => exact (hs.useAnswer.appendWire hpkt).respond fun herror => absurd rfl herror
  case isFalse => exact hs.useAnswer.respond fun _ => rfl

/-- The packet of a frame with a legal LED_COUNT is a sent packet. -/
theorem isSentPacket_frame {pkt : Packet} (h : encodeDmx s.frame s.seq s.dataUniv = some pkt) :
    IsSentPacket s.seq pkt :=
  .inl ⟨s.frame, s.dataUniv, s.ledCount.toNat, s.frame_length, hs.led.1, hs.led.2, h⟩

/-- Every effect of a command keeps the invariant. -/
theorem of_effect {t : State} (h : Effect s t) : t.Inv := by
  cases h with
  | responds c d hdata => exact hs.respond hdata
  | ledCount v hv => exact (hs.setLedCount hv).respond fun _ => rfl
  | dataUniv u => exact (hs.setDataUniv u).respond fun _ => rfl
  | write a v => exact (hs.setPbuf (Memory.wf_write hs.pbuf a.isLt v)).respond fun _ => rfl
  | clear => exact (hs.setPbuf Memory.wf_clear).respond fun _ => rfl
  | frame pkt hpkt => exact hs.offerPacket (hs.isSentPacket_frame hpkt)
  | dimmer b pkt hpkt => exact hs.offerPacket (.inr ⟨b, hpkt⟩)

end State.Inv

/-- Settles O11: State.reset is what a reset leaves. -/
theorem invariantHoldsAtReset : Obligations.InvariantHoldsAtReset :=
  show State.reset.takeReset.Inv from .takeReset State.reset

/-- Settles O12: a step idles, resets, answers an illegal word or has a command's effect, and each keeps the
invariant. -/
theorem stepKeepsTheInvariant : Obligations.StepKeepsTheInvariant := by
  intro s t hs hstep
  obtain ⟨-, rfl⟩ | ⟨rest, -, rfl⟩ | ⟨w, rest, e, -, -, rfl⟩ | ⟨w, rest, i, -, -, hexec⟩ := step_cases hstep
  · exact hs
  · exact .takeReset _
  · exact (hs.setHostPort rest).respond fun _ => rfl
  · exact (hs.setHostPort rest).of_effect (exec_effect hexec)

/-- A legal LED_COUNT gives a frame in the serialization's domain. -/
theorem State.LedLegal.frame_length_bounds {s : State} (hled : s.LedLegal) :
    1 ≤ s.frame.length ∧ s.frame.length ≤ 512 := by
  rw [State.frame_length]
  omega

/-- With a legal LED_COUNT every command goes on. -/
theorem exec_next_of_ledLegal {s : State} (hled : s.LedLegal) (i : Instr) : ∃ t, exec i s = .next t := by
  cases i with
  | sendframe =>
    obtain ⟨hmin, hmax⟩ := hled.frame_length_bounds
    exact ⟨_, State.send_of_length s s.dataUniv hmin hmax⟩
  | senddim b => exact ⟨_, State.send_of_length s 15 (payload := [b]) (by simp) (by simp)⟩
  | _ => exact ⟨_, rfl⟩

/-- Settles O13: only a command could stop the step, and none does with the legal LED_COUNT of the invariant. -/
theorem noStepEverStops : Obligations.NoStepEverStops := by
  intro s hs
  match hport : s.hostPort with
  | [] => exact ⟨s, step_idle hport⟩
  | .reset :: rest => exact ⟨_, step_reset hport⟩
  | .command w :: rest =>
    cases hdecode : decode w with
    | error e => exact ⟨_, step_illegal hport hdecode⟩
    | ok i =>
      obtain ⟨t, ht⟩ := exec_next_of_ledLegal (hs.setHostPort rest).led i
      exact ⟨t, (step_of_decode hport hdecode).trans ht⟩

end Sys2Proof.Machine
end

section
/-! Operands of an assembler line (spec/30_encoding.md R59). -/

namespace Sys2Proof.Asm

/-- An operand that fits its field. -/
theorem field_of_lt {w n : Nat} (h : n < 2 ^ w) : field w n = .ok (BitVec.ofNat w n) := if_pos h

/-- An operand outside its field width. -/
theorem field_of_not_lt {w n : Nat} (h : ¬ n < 2 ^ w) : field w n = .error .operandRange := if_neg h

/-- An operand that is a field's number fits the field. -/
theorem field_toNat {w : Nat} (x : BitVec w) : field w x.toNat = .ok x := by
  rw [field, if_pos x.isLt, BitVec.ofNat_toNat, BitVec.setWidth_eq]

/-- A line that stands for one command with one operand: the word with the operand, or an error. -/
theorem words_of_one_operand {st : Stmt} {w n : Nat} {command : BitVec w → Instr} (value : Nat → Nat)
    (hexpand : st.expand = (field w n).map fun x => [command x])
    (hvalue : ∀ x, (encode (command x)).toNat = value x.toNat) :
    if n < 2 ^ w then ∃ word, st.words = .ok [word] ∧ word.toNat = value n
    else st.words = .error .operandRange := by
  rw [Stmt.words, hexpand]
  split
  · next h =>
    refine ⟨encode (command (BitVec.ofNat w n)), by rw [field_of_lt h]; rfl, ?_⟩
    rw [hvalue, BitVec.toNat_ofNat, Nat.mod_eq_of_lt h]
  · next h => rw [field_of_not_lt h]; rfl

/-- WRBYTE's two operands: the word with both when both fit, else an error. -/
theorem words_wrbyte (a v : Nat) :
    if a < 512 ∧ v < 256 then
      ∃ word, (Stmt.wrbyte a v).words = .ok [word] ∧ word.toNat = 0x30000000 + 0x10000 * a + v
    else (Stmt.wrbyte a v).words = .error .operandRange := by
  by_cases ha : a < 2 ^ 9
  · by_cases hv : v < 2 ^ 8
    · rw [if_pos ⟨ha, hv⟩]
      refine ⟨encode (.wrbyte (BitVec.ofNat 9 a) (BitVec.ofNat 8 v)), ?_, ?_⟩
      · rw [Stmt.words, Stmt.expand, field_of_lt ha, field_of_lt hv]; rfl
      · rw [encode_wrbyte_toNat, BitVec.toNat_ofNat, BitVec.toNat_ofNat, Nat.mod_eq_of_lt ha, Nat.mod_eq_of_lt hv]
    · rw [if_neg fun h => hv h.2, Stmt.words, Stmt.expand, field_of_lt ha, field_of_not_lt hv]; rfl
  · rw [if_neg fun h => ha h.1, Stmt.words, Stmt.expand, field_of_not_lt ha]; rfl

/-- Settles O44: every operand goes through `field`, which gives its number or an error. -/
theorem assemblerNeverTruncates : Obligations.AssemblerNeverTruncates := by
  refine ⟨fun n => ?setled, fun u => ?setuniv, words_wrbyte, fun a => ?rdbyte, fun b => ?senddim, fun sel => ?rdreg⟩
  case setled => exact words_of_one_operand (0x10000000 + ·) rfl encode_setled_toNat
  case setuniv => exact words_of_one_operand (0x20000000 + ·) rfl encode_setuniv_toNat
  case rdbyte => exact words_of_one_operand (0x40000000 + 0x10000 * ·) rfl encode_rdbyte_toNat
  case senddim => exact words_of_one_operand (0x70000000 + ·) rfl encode_senddim_toNat
  case rdreg => exact words_of_one_operand (0x80000000 + ·) rfl encode_rdreg_toNat

end Sys2Proof.Asm
end

section
/-! Several byte writes in a row: CLEAR as a loop of writes, RDBYTE after WRBYTE, and the three writes of WRPIX
(spec/42_buffer.md R64 to R66; spec/30_encoding.md R60). -/

namespace Sys2Proof.Machine

/-- Writing 0 at each of a list of valid addresses keeps the canonical form and zeroes those bytes alone. -/
theorem Memory.foldl_write_zero :
    ∀ {addrs : List Nat} {m : Memory}, (∀ a ∈ addrs, a < 512) → m.wf = true →
      (addrs.foldl (fun m a => m.write a 0) m).wf = true
        ∧ ∀ b, (addrs.foldl (fun m a => m.write a 0) m).read b = if b ∈ addrs then 0 else m.read b
  | [], m, _, hm => ⟨hm, fun b => by simp⟩
  | a :: addrs, m, haddrs, hm => by
    obtain ⟨ha, htail⟩ := List.forall_mem_cons.1 haddrs
    obtain ⟨hwf, hread⟩ := foldl_write_zero htail (Memory.wf_write hm ha 0)
    refine ⟨hwf, fun b => ?_⟩
    rw [List.foldl_cons, hread, Memory.read_write hm]
    grind

/-- Settles O20: the loop leaves a canonical buffer that reads 0 at every address, and the empty list is the only
one. -/
theorem clearIsTheLoopOfWrites : Obligations.ClearIsTheLoopOfWrites := by
  intro s hwf
  obtain ⟨hloop, hread⟩ := Memory.foldl_write_zero (fun a ha => List.mem_range.1 ha) hwf
  have hclear : [] = (List.range 512).foldl (fun m a => m.write a 0) s.pbuf :=
    Memory.wf_ext Memory.wf_clear hloop fun a ha => by
      rw [hread, if_pos (List.mem_range.2 ha), Memory.read_nil]
  rw [exec_clear, ← hclear]
  rfl

/-- Settles O24: RDBYTE reads the written buffer. -/
theorem rdbyteAfterWrbyte : Obligations.RdbyteAfterWrbyte := by
  intro s a b v hwf
  refine ⟨_, _, exec_wrbyte a v s, exec_rdbyte b _, ?_⟩
  simp only [State.respond_resp, State.respond_pbuf, State.setPbuf_resp, State.setPbuf_pbuf, Memory.read_write hwf,
    BitVec.toNat_inj, List.append_assoc, List.singleton_append]
  rfl

/-- Settles O43: the three addresses are different and below 512, so each read gives its own write. -/
theorem wrpixWritesThreeBytes : Obligations.WrpixWritesThreeBytes := by
  intro i r g b s hi hwf
  have hexpand : (Asm.Stmt.wrpix i r.toNat g.toNat b.toNat).expand = .ok (Asm.pixelWrites i r g b) := by
    simp only [Asm.Stmt.expand, if_pos hi, Asm.field_toNat]
    rfl
  refine ⟨_, _, _, _, _, _, hexpand, exec_wrbyte _ _ _, exec_wrbyte _ _ _, exec_wrbyte _ _ _, ?_⟩
  have haddr (k : Nat) (hk : k ≤ 2) : (BitVec.ofNat 9 (3 * i + k)).toNat = 3 * i + k := by
    rw [BitVec.toNat_ofNat]; omega
  have haddr₀ : (BitVec.ofNat 9 (3 * i)).toNat = 3 * i := haddr 0 (by omega)
  have hwf₁ := Memory.wf_write hwf (a := 3 * i) (by omega) r
  have hwf₂ := Memory.wf_write hwf₁ (a := 3 * i + 1) (by omega) g
  have hread (a : Nat) : (((s.pbuf.write (3 * i) r).write (3 * i + 1) g).write (3 * i + 2) b).read a
      = if a = 3 * i + 2 then b else if a = 3 * i + 1 then g else if a = 3 * i then r else s.pbuf.read a := by
    rw [Memory.read_write hwf₂, Memory.read_write hwf₁, Memory.read_write hwf]
  simp only [State.respond_pbuf, State.setPbuf_pbuf, haddr₀, haddr 1 (by omega), haddr 2 (by omega), hread]
  grind

end Sys2Proof.Machine
end

section
/-! Reading back a built packet, and the packets that accepted sends put on WIRE (spec/30_encoding.md R40 to R50;
spec/43_transmit.md R67 to R70). -/

namespace Sys2Proof.Machine

/-- The two Length bytes of a built packet, most significant first (R47). -/
theorem byteAt_header_length (s : Byte) (u : Half) {len : Nat} (p : List Byte) (hlen : len < 65536) :
    (byteAt (packetHeader s u len ++ p) 16).toNat = len / 256
      ∧ (byteAt (packetHeader s u len ++ p) 17).toNat = len % 256 := by
  have hnum : (BitVec.ofNat 16 len).toNat = len := by rw [BitVec.toNat_ofNat]; omega
  constructor
  · rw [byteAt_header p (by decide)]; exact (highByte_toNat _).trans (by rw [hnum])
  · rw [byteAt_header p (by decide)]; exact (lowByte_toNat _).trans (by rw [hnum])

/-- Settles O26: the header's bytes as `packetHeader_eq` lists them, with the payload's length below 65536. -/
theorem packetIdSequenceAndLength : Obligations.PacketIdSequenceAndLength := by
  intro p s u pkt h
  obtain ⟨⟨-, hmax⟩, rfl⟩ := encodeDmx_eq_some.1 h
  obtain ⟨hhigh, hlow⟩ := byteAt_header_length s u p (len := p.length) (by omega)
  exact ⟨rfl, rfl, hhigh, hlow, by rw [List.length_append, packetHeader_length]⟩

/-- Settles O27: the domain of `encodeDmx_eq_some`, with "not empty" for "at least one byte". -/
theorem encodeDmxDomain : Obligations.EncodeDmxDomain := by
  intro p s u
  simp only [encodeDmx_eq_some, exists_and_left, exists_eq, and_true]
  omega

/-- Reading back a packet of a payload whose length fits the two Length bytes. -/
theorem parsePacket_header (s : Byte) (u : Half) {p : List Byte} (hlen : p.length < 65536) :
    parsePacket (packetHeader s u p.length ++ p) = ⟨s, u, p.length, p⟩ := by
  obtain ⟨hhigh, hlow⟩ := byteAt_header_length s u p hlen
  have hlength : 256 * (byteAt (packetHeader s u p.length ++ p) 16).toNat
      + (byteAt (packetHeader s u p.length ++ p) 17).toNat = p.length := by
    rw [hhigh, hlow]; omega
  have huniverse : BitVec.ofNat 16 ((u.extractLsb' 0 8).toNat + 256 * (u.extractLsb' 8 8).toNat) = u := by
    rw [lowByte_toNat, highByte_toNat, Nat.mod_add_div, BitVec.ofNat_toNat, BitVec.setWidth_eq]
  rw [parsePacket, hlength, Config.headerLen, drop_header, List.take_length]
  exact congrArg (ParsedPacket.mk s · p.length p) huniverse

/-- Settles O28: the packet is the header and the payload, and 512 bytes fit the Length field. -/
theorem packetRoundTrip : Obligations.PacketRoundTrip :=
  fun p s u hmin hmax => ⟨_, encodeDmx_of_length s u hmin hmax, parsePacket_header s u (by omega)⟩

/-- An accepted send puts the packet of its payload on WIRE. -/
theorem State.send_accepted {s : State} {payload : List Byte} (u : Half) (hmin : 1 ≤ payload.length)
    (hmax : payload.length ≤ 512) (hanswer : s.txAnswer = true) :
    ∃ t, s.send payload u = .next t
      ∧ t.wire = s.wire ++ [packetHeader s.seq u payload.length ++ payload] :=
  ⟨_, State.send_of_length s u hmin hmax, by rw [State.offerPacket_accept s hanswer]⟩

/-- An accepted SENDFRAME puts the packet of the frame on WIRE. -/
theorem exec_sendframe_accepted {s : State} (hled : s.LedLegal) (hanswer : s.txAnswer = true) :
    ∃ t, exec .sendframe s = .next t
      ∧ t.wire = s.wire ++ [packetHeader s.seq s.dataUniv s.frame.length ++ s.frame] := by
  obtain ⟨hmin, hmax⟩ := hled.frame_length_bounds
  exact State.send_accepted s.dataUniv hmin hmax hanswer

/-- Data byte `k` of a built packet is byte `k` of the payload. -/
theorem byteAt_data {s : Byte} {u : Half} {len k : Nat} {p : List Byte} (h : k < p.length) :
    byteAt (packetHeader s u len ++ p) (18 + k) = p[k] := by
  rw [byteAt, List.getD_append_right _ _ _ _ (by simp), packetHeader_length, Nat.add_sub_cancel_left,
    List.getD_eq_getElem _ _ h]

/-- Settles O29: the packet's payload is the frame, whose byte k is PBUF[k]. -/
theorem framePacketCarriesTheBuffer : Obligations.FramePacketCarriesTheBuffer := by
  intro s hled hanswer
  obtain ⟨t, hexec, hwire⟩ := exec_sendframe_accepted hled hanswer
  have hparse := parsePacket_header s.seq s.dataUniv (p := s.frame) (by rw [State.frame_length]; omega)
  refine ⟨t, _, hexec, hwire, ?length, fun k hk => ?byte, ?sequence, ?dataUniv, ?parsedLength⟩
  case length => rw [List.length_append, packetHeader_length, State.frame_length]
  case byte =>
    have hframe : k < s.frame.length := by rwa [State.frame_length]
    rw [byteAt_data hframe, State.frame_getElem s hframe]
  case sequence => rw [hparse]
  case dataUniv => rw [hparse]
  case parsedLength => rw [hparse]; exact s.frame_length

/-- The header of a one-byte packet on universe 15. -/
theorem packetHeader_dimmer (q : Byte) :
    packetHeader q 15 1 = [0x41, 0x72, 0x74, 0x2D, 0x4E, 0x65, 0x74, 0x00, 0x00, 0x50, 0x00, 0x0E, q, 0x00, 0x0F, 0x00,
      0x00, 0x01] := rfl

/-- Settles O30: the header on universe 15 with Length 1, then the byte. -/
theorem dimmerPacketBytes : Obligations.DimmerPacketBytes := by
  intro s b hanswer
  obtain ⟨t, hexec, hwire⟩ := State.send_accepted (payload := [b]) 15 (by simp) (by simp) hanswer
  rw [List.length_singleton, packetHeader_dimmer] at hwire
  exact ⟨t, hexec, hwire⟩

/-- With a buffer that lists no byte the frame is all zeroes. -/
theorem State.frame_of_nil {s : State} (h : s.pbuf = []) : s.frame = List.replicate (3 * s.ledCount.toNat) 0 := by
  refine List.eq_replicate_iff.2 ⟨s.frame_length, fun b hb => ?_⟩
  rw [State.frame, h] at hb
  obtain ⟨a, -, rfl⟩ := List.mem_map.1 hb
  exact Memory.read_nil a

/-- Settles O42: CLEAR leaves the registers and the answer to come, and the frame of the clear buffer is all zeroes. -/
theorem clearThenSendframeSendsZeroes : Obligations.ClearThenSendframeSendsZeroes := by
  intro s hled hanswer
  obtain ⟨u, hexec, hwire⟩ := exec_sendframe_accepted (s := (s.setPbuf []).respond .ok 0) hled hanswer
  refine ⟨_, u, _, exec_clear s, hexec, hwire, ?_⟩
  rw [parsePacket_header _ _ (by rw [State.frame_length, State.respond_ledCount, State.setPbuf_ledCount]; omega),
    State.frame_length, State.frame_of_nil rfl]
  rfl

end Sys2Proof.Machine
end

section
/-! What each command writes and what it does not read (spec/10_state.md; spec/20_memory.md R31, R32, R35). -/

namespace Sys2Proof.Machine

/-- An offer writes neither the configuration, nor the buffer, nor the port. -/
theorem State.offerPacket_keeps (s : State) (pkt : Packet) :
    (s.offerPacket pkt).dataUniv = s.dataUniv ∧ (s.offerPacket pkt).ledCount = s.ledCount
      ∧ (s.offerPacket pkt).pbuf = s.pbuf ∧ (s.offerPacket pkt).hostPort = s.hostPort := by
  rw [State.offerPacket_eq]
  split <;> exact ⟨rfl, rfl, rfl, rfl⟩

/-- Settles O35: each command's meaning as an update of the state shows the one register it writes. -/
theorem onlyNamedCommandsWriteEachRegister : Obligations.OnlyNamedCommandsWriteEachRegister := by
  intro i s t h
  cases i with
  | nop | setuniv | wrbyte | rdbyte | clear => cases h; simp
  | setled n => rw [exec_setled] at h; cases h; split <;> simp
  | rdreg sel => rw [exec_rdreg] at h; cases h; split <;> simp
  | sendframe | senddim =>
    obtain ⟨pkt, -, rfl⟩ := exec_send_offers rfl h
    obtain ⟨hdataUniv, hledCount, hpbuf, hport⟩ := s.offerPacket_keeps pkt
    simp [hdataUniv, hledCount, hpbuf, hport, IsSend]

/-- Settles O36: a command word's step appends to WIRE one packet or none. -/
theorem wirePacketsAreNeverChanged : Obligations.WirePacketsAreNeverChanged := by
  intro s t w rest hport hstep k pkt hk
  obtain ⟨-, -, sent, hwire, -⟩ | ⟨-, hwire, -⟩ := seqAdvancesOncePerAcceptedPacket s t w rest hport hstep
  · obtain ⟨hlt, -⟩ := List.getElem?_eq_some_iff.1 hk
    rw [hwire, List.getElem?_append_left hlt, hk]
  · rw [hwire, hk]

/-- From `s` the command appends to the histories and goes on to `t`; from `s` with other histories it appends the same
and otherwise goes on to the same. -/
def AppendsAlike (i : Instr) (s t : State) (wire' : List Packet) (resp' : List Response) : Prop :=
  ∃ sent said, t.wire = s.wire ++ sent ∧ t.resp = s.resp ++ said
    ∧ exec i { s with wire := wire', resp := resp' } = .next { t with wire := wire' ++ sent, resp := resp' ++ said }

/-- A command that updates other fields than the histories and then answers. -/
theorem appendsAlike_of_respond {i : Instr} {s u : State} {c : RespCode} {d : Half} {wire' : List Packet}
    {resp' : List Response} (hwire : u.wire = s.wire) (hresp : u.resp = s.resp)
    (h : exec i { s with wire := wire', resp := resp' } = .next ({ u with wire := wire', resp := resp' }.respond c d)) :
    AppendsAlike i s (u.respond c d) wire' resp' := by
  refine ⟨[], [⟨c, d⟩], by simp [hwire], by simp [hresp], ?_⟩
  rw [h, List.append_nil]
  rfl

/-- An offer reads the transport's answer and SEQ, and appends to the histories. -/
theorem State.offerPacket_withHistories (s : State) (pkt : Packet) (wire' : List Packet) (resp' : List Response) :
    ∃ sent said, (s.offerPacket pkt).wire = s.wire ++ sent ∧ (s.offerPacket pkt).resp = s.resp ++ said
      ∧ { s with wire := wire', resp := resp' }.offerPacket pkt
        = { s.offerPacket pkt with wire := wire' ++ sent, resp := resp' ++ said } := by
  cases hanswer : s.txAnswer with
  | true =>
    rw [State.offerPacket_accept s hanswer]
    exact ⟨_, _, rfl, rfl, State.offerPacket_accept { s with wire := wire', resp := resp' } hanswer pkt⟩
  | false =>
    rw [State.offerPacket_refuse s hanswer]
    refine ⟨[], _, (List.append_nil _).symm, rfl, ?_⟩
    rw [List.append_nil]
    exact State.offerPacket_refuse { s with wire := wire', resp := resp' } hanswer pkt

/-- A send step whose packet exists offers it. -/
theorem State.send_of_encodeDmx {s : State} {payload : List Byte} {u : Half} {pkt : Packet}
    (h : encodeDmx payload s.seq u = some pkt) : s.send payload u = .next (s.offerPacket pkt) := by
  rw [State.send, h]

/-- A send step with other histories. -/
theorem appendsAlike_of_send {i : Instr} {s t : State} {payload : List Byte} {u : Half} {wire' : List Packet}
    {resp' : List Response} (h : s.send payload u = .next t)
    (hexec : exec i { s with wire := wire', resp := resp' } = { s with wire := wire', resp := resp' }.send payload u) :
    AppendsAlike i s t wire' resp' := by
  obtain ⟨pkt, hpkt, rfl⟩ := State.send_next h
  obtain ⟨sent, said, hwire, hresp, hoffer⟩ := s.offerPacket_withHistories pkt wire' resp'
  have hnext := hexec.trans (State.send_of_encodeDmx hpkt)
  exact ⟨sent, said, hwire, hresp, hnext.trans (congrArg Host.Outcome.next hoffer)⟩

/-- Settles O37: no update, register read or frame looks at the histories, and an answer or an accepted packet is
appended. -/
theorem historiesAreNotRead : Obligations.HistoriesAreNotRead := by
  intro i s t wire' resp' h
  change AppendsAlike i s t wire' resp'
  cases i with
  | nop | rdbyte => cases h; exact appendsAlike_of_respond (u := s) rfl rfl rfl
  | setuniv u => cases h; exact appendsAlike_of_respond (u := s.setDataUniv u) rfl rfl rfl
  | wrbyte a v => cases h; exact appendsAlike_of_respond (u := s.setPbuf _) rfl rfl rfl
  | clear => cases h; exact appendsAlike_of_respond (u := s.setPbuf []) rfl rfl rfl
  | setled n =>
    by_cases hn : ledCountLegal n = true
    · rw [exec_setled_legal hn] at h; cases h
      exact appendsAlike_of_respond (u := s.setLedCount _) rfl rfl (exec_setled_legal hn _)
    · rw [exec_setled_illegal hn] at h; cases h
      exact appendsAlike_of_respond (u := s) rfl rfl (exec_setled_illegal hn _)
  | rdreg sel =>
    cases hreg : s.readReg sel with
    | some v =>
      rw [exec_rdreg_some hreg] at h; cases h
      exact appendsAlike_of_respond (u := s) rfl rfl (exec_rdreg_some hreg)
    | none =>
      rw [exec_rdreg_none hreg] at h; cases h
      exact appendsAlike_of_respond (u := s) rfl rfl (exec_rdreg_none hreg)
  | sendframe => exact appendsAlike_of_send (exec_sendframe s ▸ h) rfl
  | senddim b => exact appendsAlike_of_send (exec_senddim b s ▸ h) rfl

/-- A function of the state that an offer commutes with and that keeps SEQ carries a send step over. -/
theorem State.send_map {f : State → State} {s t : State} {payload : List Byte} {u : Half} (hseq : (f s).seq = s.seq)
    (hoffer : ∀ pkt, (f s).offerPacket pkt = f (s.offerPacket pkt)) (h : s.send payload u = .next t) :
    (f s).send payload u = .next (f t) := by
  obtain ⟨pkt, hpkt, rfl⟩ := State.send_next h
  rw [← hoffer]
  exact State.send_of_encodeDmx (hseq ▸ hpkt)

/-- The state with another configuration and buffer. -/
def State.withFrame (u : Half) (n : Byte) (m : Memory) (s : State) : State :=
  { s with dataUniv := u, ledCount := n, pbuf := m }

/-- An offer neither reads nor writes the configuration and the buffer. -/
theorem State.offerPacket_withFrame (s : State) (u : Half) (n : Byte) (m : Memory) (pkt : Packet) :
    (s.withFrame u n m).offerPacket pkt = (s.offerPacket pkt).withFrame u n m := by
  cases hanswer : s.txAnswer with
  | true =>
    rw [State.offerPacket_accept s hanswer]
    exact State.offerPacket_accept (s.withFrame u n m) hanswer pkt
  | false =>
    rw [State.offerPacket_refuse s hanswer]
    exact State.offerPacket_refuse (s.withFrame u n m) hanswer pkt

/-- Settles O38: SENDDIM's payload and universe are the command's own. -/
theorem senddimIgnoresTheFrame : Obligations.SenddimIgnoresTheFrame := by
  intro b s t u n m h
  rw [exec_senddim] at h
  exact State.send_map (f := State.withFrame u n m) rfl (s.offerPacket_withFrame u n m) h

/-- Settles O39: with bytes that agree below 3 * LED_COUNT the frame is the same, and only the frame is sent. -/
theorem sendframeIgnoresBytesBeyondTheFrame : Obligations.SendframeIgnoresBytesBeyondTheFrame := by
  intro s t m hagree h
  have hframe : { s with pbuf := m }.frame = s.frame := List.map_congr_left fun a ha => hagree a (List.mem_range.1 ha)
  rw [exec_sendframe] at h
  rw [exec_sendframe, hframe]
  obtain ⟨pkt, -, rfl⟩ := State.send_next h
  obtain ⟨hdataUniv, hledCount, -, -⟩ := s.offerPacket_keeps pkt
  have hsend := State.send_map (f := State.withFrame s.dataUniv s.ledCount m) rfl (s.offerPacket_withFrame _ _ _) h
  have hkeeps : (s.offerPacket pkt).withFrame s.dataUniv s.ledCount m = { s.offerPacket pkt with pbuf := m } := by
    rw [State.withFrame, ← hdataUniv, ← hledCount]
  exact hkeeps ▸ hsend

end Sys2Proof.Machine
end

section
/-! The sequence numbers of the packets on WIRE, and runs of sends (spec/43_transmit.md R71 to R73). -/

namespace Sys2Proof.Machine

/-- Settles O32: a refused send leaves SEQ and WIRE, and an accepted one sends the SEQ it finds. -/
theorem refusedSendReusesItsSequenceValue : Obligations.RefusedSendReusesItsSequenceValue := by
  intro i j s t u hi hj hrefuse hexec haccept hexec'
  obtain ⟨hwire, hseq⟩ := exec_send_refused hi hexec hrefuse
  obtain ⟨pkt, hwire', hcarries, -⟩ := exec_send_accepted hj hexec' haccept
  exact ⟨hseq, hwire, pkt, hwire ▸ hwire', hseq ▸ hcarries⟩

/-- A sent packet carries its sequence value in byte 12. -/
theorem IsSentPacket.byteAt_twelve {q : Byte} {pkt : Packet} (h : IsSentPacket q pkt) : byteAt pkt 12 = q := by
  obtain ⟨_, _, _, -, -, -, hpkt⟩ | ⟨_, hpkt⟩ := h <;> exact byteAt_twelve_of_encodeDmx hpkt

/-- In a state of the invariant packet `k` on WIRE carries `k mod 256`. -/
theorem State.Inv.wire_sequence {s : State} (hs : s.Inv) {k : Nat} {pkt : Packet} (hk : s.wire[k]? = some pkt) :
    (byteAt pkt 12).toNat = k % 256 := by
  rw [(hs.wirePackets k pkt hk).byteAt_twelve, BitVec.toNat_ofNat]

/-- Settles O40: the invariant says which value packet k carries, and below 256 the values differ. -/
theorem wireSequenceNumbersCountUp : Obligations.WireSequenceNumbersCountUp := by
  refine fun s hs => ⟨fun k pkt => hs.wire_sequence, fun j k p q hjk hk hp hq heq => ?_⟩
  have hj : (byteAt p 12).toNat = j % 256 := hs.wire_sequence hp
  have hk' : (byteAt q 12).toNat = k % 256 := hs.wire_sequence hq
  rw [heq] at hj
  omega

/-- Every send is a command of the opcode map. -/
theorem wellFormed_of_isSend {i : Instr} (h : IsSend i = true) : i.wellFormed = true := by
  cases i with
  | sendframe | senddim => rfl
  | _ => cases h

/-- The answer to come is the first of those given. -/
theorem State.txAnswer_of_head {s : State} {b : Bool} (h : s.txScript[0]? = some b) : s.txAnswer = b := by
  rw [State.txAnswer, List.head?_eq_getElem?, h, Option.getD_some]

/-- The step of an accepted send: the packet goes on WIRE, SEQ advances, and the word and the answer are used up. -/
theorem step_send_accepted {s : State} {i : Instr} {rest : List HostEvent} (hs : s.Inv) (hsend : IsSend i = true)
    (hport : s.hostPort = .command (encode i) :: rest) (hanswer : s.txScript[0]? = some true) :
    ∃ t, step s = .next t ∧ t.seq.toNat = (s.seq.toNat + 1) % 256 ∧ t.wire.length = s.wire.length + 1
      ∧ t.hostPort = rest ∧ t.txScript = s.txScript.tail := by
  obtain ⟨t, hexec⟩ := exec_next_of_ledLegal (hs.setHostPort rest).led i
  obtain ⟨pkt, -, rfl⟩ := exec_send_offers hsend hexec
  have hdecode := decode_encode (wellFormed_of_isSend hsend)
  have haccept : { s with hostPort := rest }.txAnswer = true := State.txAnswer_of_head hanswer
  refine ⟨_, (step_of_decode hport hdecode).trans hexec, ?_⟩
  rw [State.offerPacket_accept _ haccept]
  exact ⟨State.nextSeq_toNat s, List.length_append, rfl, rfl⟩

/-- A run of one step more, whose first step is known. -/
theorem run_succ_of_step {M : Host.Core} {s t : M.State} (h : M.step s = .next t) (k : Nat) :
    M.run (k + 1) s = M.run k t := by
  rw [Host.Core.run, h]

/-- A run of accepted sends, one step for each. -/
theorem run_sends_accepted : ∀ {sends : List Instr} {s : State}, s.Inv → (∀ i ∈ sends, IsSend i = true) →
    s.hostPort = sends.map (fun i => .command (encode i)) → (∀ k, k < sends.length → s.txScript[k]? = some true) →
    ∃ t : State, Host.Core.run core sends.length s = .next t
      ∧ t.seq.toNat = (s.seq.toNat + sends.length) % 256 ∧ t.wire.length = s.wire.length + sends.length
  | [], s, _, _, _, _ => ⟨s, rfl, (Nat.mod_eq_of_lt s.seq.isLt).symm, rfl⟩
  | i :: sends, s, hs, hsends, hport, hscript => by
    obtain ⟨hsend, hsends'⟩ := List.forall_mem_cons.1 hsends
    obtain ⟨t, hstep, hseq, hwire, hport', hscript'⟩ :=
      step_send_accepted hs hsend hport (hscript 0 (Nat.succ_pos _))
    have hanswers : ∀ k, k < sends.length → t.txScript[k]? = some true := fun k hk => by
      rw [hscript', List.getElem?_tail, hscript (k + 1) (Nat.succ_lt_succ hk)]
    obtain ⟨u, hrun, hseq', hwire'⟩ :=
      run_sends_accepted (stepKeepsTheInvariant s t hs hstep) hsends' hport' hanswers
    refine ⟨u, (run_succ_of_step (M := core) hstep _).trans hrun, ?_, ?_⟩
    · rw [hseq', hseq, List.length_cons]; omega
    · rw [hwire', hwire, List.length_cons]; omega

/-- Settles O41: the run of accepted sends, and 256 is 0 modulo 256. -/
theorem sendsInARowWrapTheCounter : Obligations.SendsInARowWrapTheCounter := by
  intro s sends hs hsends hport hscript
  obtain ⟨t, hrun, hseq, hwire⟩ := run_sends_accepted hs hsends hport hscript
  refine ⟨t, hrun, hseq, hwire, fun hlength => BitVec.eq_of_toNat_eq ?_⟩
  rw [hseq, hlength, Nat.add_mod_right, Nat.mod_eq_of_lt s.seq.isLt]

end Sys2Proof.Machine
end
